-- ==== Sys2Proof/Word.lean ====
section
/-!
DEFINITION. The words of i2c_bit_bang_master: bytes, tick counts, addresses, levels and the two pins (00_scope.md R7, R9).
A buffer length or cursor is a natural of `LEN_W` bits; `LEN_W` is OPEN, a field of the state (`State.lenW`, log 1).
-/

namespace Sys2Proof

/-- The unit of both buffers and of the wire frame (R7). -/
abbrev Byte := BitVec 8

/-- A tick count, and one answer of `uptime()`: `TICK_W` = 64 bits (R7, D7). -/
abbrev Tick := BitVec 64

/-- The target address: 7 bits (R7). -/
abbrev Address := BitVec 7

/-- A level or a bit: "the source's `true`/high is `1` and `false`/low is `0`" (R9). -/
abbrev Bit := Bool

/-- The block's two pins (R7, R38). -/
inductive Pin where
  | scl
  | sda
  deriving DecidableEq, Repr, Inhabited

end Sys2Proof
end

