-- ==== Sys2Proof/Config.lean ====
section
/-!
DEFINITION. What an implementation fixes, the type the spec leaves open, and the values it leaves free. An open type or value
rests on a constant with no body: nothing can be proved of it, so a claim holds whatever it is.
-/

namespace Sys2Proof

/-- The OPEN type `TimeoutErr` (R7, D31, U11): which tokens besides the token 0 are values of it. It has no body, so the type is
an argument of the model: any type with at least one and at most countably many values (log 6). -/
opaque Config.isTimeoutErr : Nat → Bool

/-- The value a failing timeout callback produces, of the opaque type `TimeoutErr` (R7, R210, U11). No rule inspects or changes
it (R156); the model only tells two values apart (log 6). -/
structure TimeoutErr where
  token : Nat
  legal : token = 0 ∨ Config.isTimeoutErr token = true
  deriving DecidableEq, Repr

/-- One answer of the timeout callback: `() -> success | failure` (R66). -/
inductive PollAnswer where
  | ok
  | fail (e : TimeoutErr)
  deriving DecidableEq, Repr, Inhabited

/-- `duty_cycle`, "default 0.5" (10_state.md R32): numerator. -/
def Config.defaultDutyNum : Nat := 1

/-- `duty_cycle`, "default 0.5" (10_state.md R32): denominator. -/
def Config.defaultDutyDen : Nat := 2

/-- `F_CLK` of the block that `State.reset` describes. The spec leaves `F_CLK` OPEN (R7); this is the clock its own
vectors use "unless a vector says otherwise" (95_test_vectors.md). DESIGN CHOICE (log 2): `F_CLK` is a field of the state, and
every other construction is `State.construct`. -/
def Config.defaultFClk : Nat := 1000000

/-- `LEN_W`, "default 32" (R7, D28; log 1). -/
def Config.defaultLenW : Nat := 32

/-- Free value: the `n`-th answer of `PinGet(SCL)` that nobody has given (R39, U12; log 4). -/
opaque Config.freeScl : Nat → Bit

/-- Free value: the `n`-th answer of `PinGet(SDA)` that nobody has given (R39, U12; log 4). -/
opaque Config.freeSda : Nat → Bit

/-- Free value: the `n`-th answer of `Poll()` that nobody has given (R66, U14; log 4). -/
opaque Config.freePoll : Nat → PollAnswer

/-- Free value: the `n`-th tick count of `Uptime()` that nobody has given, before the law of R40 is applied to it
(U13; log 4 and 5). -/
opaque Config.freeUptime : Nat → Tick

/-- Free value: the tick register's contents for a tick count that does not fit `TICK_W` bits. The spec says the count
fits "when `F_CLK < 2^TICK_W`" and states nothing for a faster clock (R133; log 14). -/
opaque Config.tickOutOfRange : Nat → Tick

/-- Free value: byte `i` of RBUF in the host's view after a TRANSACTION's error result (20_memory.md R64, U4; log
15), `moment` being the one at which that TRANSACTION returned. -/
opaque Config.unspecifiedByte (moment i : Nat) : Byte

end Sys2Proof
end

