-- ==== Sys2Proof/Syntax.lean ====
section
/-!
DEFINITION. The 24 operations of the block, one constructor for each row of the operation code table (30_encoding.md R98), with
the operands of R99 and of each operation's own rule. DESIGN CHOICE (log 24): where R98's operand column lists fewer than
the operation's rule (CAL_PIN: `u` of R126; CAL_BUDGET: all five of R129), the model follows the rule. Two operands are not written here: the timeout callback, which is the environment
that answers every `Poll` (R11), and the sinks RBUF and `buf` of READ, which have a length and no contents to pass in.
-/

namespace Sys2Proof

/-- An operation of the block (R98). -/
inductive Instr where
  /-- CONFIGURE: the requested bus clock rate in Hz (R120). -/
  | configure (rate : Nat)
  /-- TRANSACTION: target address, write buffer with its length, length of the read buffer (R180). -/
  | transaction (addr : Address) (wlen : Nat) (wbuf : List Byte) (rlen : Nat)
  /-- ST_START (R183). -/
  | stStart
  /-- ST_REPEATED_START (R184). -/
  | stRepeatedStart
  /-- ST_WRITE_ADDRESS (R185). -/
  | stWriteAddress
  /-- ST_WRITE (R186). -/
  | stWrite
  /-- ST_READ (R187). -/
  | stRead
  /-- ST_SEND_STOP (R188). -/
  | stSendStop
  /-- ST_BUS_ERROR (R189). -/
  | stBusError
  /-- ST_DONE (R190). -/
  | stDone
  /-- DELAY of `n` ticks (R131). -/
  | delay (n : Tick)
  /-- SEND_START (R150). -/
  | sendStart
  /-- SEND_STOP (R151). -/
  | sendStop
  /-- WRITE_BIT (R152). -/
  | writeBit (bit : Bit)
  /-- READ_BIT (R153). -/
  | readBit
  /-- WRITE_BYTE (R154). -/
  | writeByte (byte : Byte)
  /-- READ_BYTE (R155). -/
  | readByte
  /-- WRITE_ADDRESS: the address byte with its R/W bit (R157). -/
  | writeAddress (byteWithRwBit : Byte)
  /-- WRITE: a byte buffer and its length (R158). -/
  | write (n : Nat) (buf : List Byte)
  /-- READ: the length of a byte sink (R159). -/
  | read (n : Nat)
  /-- CAL_UPTIME (R125). -/
  | calUptime
  /-- CAL_PIN: the pin, and the measured overhead `u` of a clock read, which R126 gives it and R98's column does not. DESIGN
  CHOICE: `u` is an operand (log 24). -/
  | calPin (pin : Pin) (u : Tick)
  /-- CAL_RESTORE (R127). -/
  | calRestore
  /-- CAL_BUDGET: the five operands R129 gives it; R98's column gives it none. DESIGN CHOICE: they are operands (log 24). -/
  | calBudget (h l u cs cd : Tick)
  deriving DecidableEq, Repr

/-- The four classes of operations, which are their formats (R98). -/
inductive OpClass where
  | host
  | seq
  | eng
  | cal
  deriving DecidableEq, Repr

end Sys2Proof
end

