-- ==== Sys2Proof/WellFormed.lean ====
section
/-!
DEFINITION. When an operation's operands lie in the domain R99 gives them: a buffer operand is a length and "that many
bytes". Every other operand admits all the values of its type (R91: every address; R121: a rate of 0 is refused by
CONFIGURE itself). That a length is a `LEN_W`-bit natural depends on the block and is tested by TRANSACTION (log 18).
-/

namespace Sys2Proof

/-- A buffer operand is `n` bytes long (R99). -/
def bufferOk (n : Nat) (buf : List Byte) : Bool := buf.length == n

/-- The operands lie in their domain (R99, R158). -/
def Instr.wellFormed : Instr → Bool
  | .transaction _ wlen wbuf _ => bufferOk wlen wbuf
  | .write n buf => bufferOk n buf
  | .configure _ | .stStart | .stRepeatedStart | .stWriteAddress | .stWrite | .stRead | .stSendStop | .stBusError
  | .stDone | .delay _ | .sendStart | .sendStop | .writeBit _ | .readBit | .writeByte _ | .readByte | .writeAddress _
  | .read _ | .calUptime | .calPin _ _ | .calRestore | .calBudget _ _ _ _ _ => true

end Sys2Proof
end

