-- ==== Sys2Proof/Decode.lean ====
section
/-!
DEFINITION. The operation word, its decoder and its encoder (30_encoding.md R98, R99, R101, R106). The spec encodes an
operation as a 6-bit code "with its operands" (95_test_vectors.md Part 3) and gives the operands no bits: a word is therefore
the code in a byte lane and the operand lanes beside it (log 9). Codes are "the spec's choice" (D2).
-/

namespace Sys2Proof

/-- The operand lanes, one for each kind of operand of R99 and of the operations' own rules. A word sets the lanes its
operation has; the decoder reads no other. DESIGN CHOICE (log 24): R98's operand column gives CAL_PIN only `pin` and
CAL_BUDGET nothing, while R126 and R129 give `u` and `h, l, u, cs, cd`; the model carries the latter in the word. -/
structure OpArgs where
  /-- CONFIGURE's `clock_rate`, Hz. -/
  rate : Nat := 0
  /-- TRANSACTION's `address`. -/
  addr : Address := 0
  /-- length of the bytes in `buf` (TRANSACTION's `wlen`, WRITE's `n`). -/
  wlen : Nat := 0
  /-- the bytes of WBUF, or of WRITE's buffer. -/
  buf : List Byte := []
  /-- length of the sink (TRANSACTION's `rlen`, READ's `n`). -/
  rlen : Nat := 0
  /-- WRITE_BIT's `bit`. -/
  bit : Bit := false
  /-- WRITE_BYTE's `byte`, WRITE_ADDRESS's `byte_with_rw_bit`. -/
  byte : Byte := 0
  /-- CAL_PIN's `pin`. -/
  pin : Pin := .scl
  /-- DELAY's `n`. -/
  ticks : Tick := 0
  /-- CAL_BUDGET's `h` (R129; not in R98's column, log 24). -/
  h : Tick := 0
  /-- CAL_BUDGET's `l` (likewise). -/
  l : Tick := 0
  /-- CAL_PIN's `u` (R126) and CAL_BUDGET's `u` (likewise). -/
  u : Tick := 0
  /-- CAL_BUDGET's `cs` (likewise). -/
  cs : Tick := 0
  /-- CAL_BUDGET's `cd` (likewise). -/
  cd : Tick := 0
  deriving DecidableEq, Repr

/-- An operation word: the code `op[5:0]` in the low bits of a byte lane, and the operand lanes. -/
structure OpWord where
  op : Byte
  args : OpArgs := {}
  deriving DecidableEq, Repr

/-- Why a word is no operation (R101). -/
inductive DecodeError where
  /-- bits 7:6 of the byte lane are not 0: the code has 6 bits (R98) -/
  | notSixBits
  /-- class HOST, index 2 to 15 -/
  | hostIndex
  /-- class SEQ, index 8 to 15 -/
  | seqIndex
  /-- class ENG, index 10 to 15 -/
  | engIndex
  /-- class CAL, index 4 to 15 -/
  | calIndex
  deriving DecidableEq, Repr

/-- Class HOST (00): CONFIGURE and TRANSACTION (R98). -/
def decodeHost (index : Nat) (a : OpArgs) : Except DecodeError Instr :=
  match index with
  | 0 => .ok (.configure a.rate)
  | 1 => .ok (.transaction a.addr a.wlen a.buf a.rlen)
  | _ => .error .hostIndex

/-- Class SEQ (01): index[2:0] is the `STATE` code (R96, R98). -/
def decodeSeq (index : Nat) : Except DecodeError Instr :=
  match index with
  | 0 => .ok .stStart
  | 1 => .ok .stRepeatedStart
  | 2 => .ok .stWriteAddress
  | 3 => .ok .stWrite
  | 4 => .ok .stRead
  | 5 => .ok .stSendStop
  | 6 => .ok .stBusError
  | 7 => .ok .stDone
  | _ => .error .seqIndex

/-- Class ENG (10): the engine's operations (R98). -/
def decodeEng (index : Nat) (a : OpArgs) : Except DecodeError Instr :=
  match index with
  | 0 => .ok (.delay a.ticks)
  | 1 => .ok .sendStart
  | 2 => .ok .sendStop
  | 3 => .ok (.writeBit a.bit)
  | 4 => .ok .readBit
  | 5 => .ok (.writeByte a.byte)
  | 6 => .ok .readByte
  | 7 => .ok (.writeAddress a.byte)
  | 8 => .ok (.write a.wlen a.buf)
  | 9 => .ok (.read a.rlen)
  | _ => .error .engIndex

/-- Class CAL (11): the calibrator's operations (R98). -/
def decodeCal (index : Nat) (a : OpArgs) : Except DecodeError Instr :=
  match index with
  | 0 => .ok .calUptime
  | 1 => .ok (.calPin a.pin a.u)
  | 2 => .ok .calRestore
  | 3 => .ok (.calBudget a.h a.l a.u a.cs a.cd)
  | _ => .error .calIndex

/-- "A decoder reads `op[5:4]` ..., then `op[3:0]` against rule R98; anything not in the table is invalid" (R106). -/
def decode (w : OpWord) : Except DecodeError Instr :=
  let index := w.op.toNat % 16
  match w.op.toNat / 16 with
  | 0 => decodeHost index w.args
  | 1 => decodeSeq index
  | 2 => decodeEng index w.args
  | 3 => decodeCal index w.args
  | _ => .error .notSixBits

/-- The code of an operation, `{class[1:0], index[3:0]}` (R98). -/
def Instr.op : Instr → Byte
  | .configure _ => 0b000000
  | .transaction _ _ _ _ => 0b000001
  | .stStart => 0b010000
  | .stRepeatedStart => 0b010001
  | .stWriteAddress => 0b010010
  | .stWrite => 0b010011
  | .stRead => 0b010100
  | .stSendStop => 0b010101
  | .stBusError => 0b010110
  | .stDone => 0b010111
  | .delay _ => 0b100000
  | .sendStart => 0b100001
  | .sendStop => 0b100010
  | .writeBit _ => 0b100011
  | .readBit => 0b100100
  | .writeByte _ => 0b100101
  | .readByte => 0b100110
  | .writeAddress _ => 0b100111
  | .write _ _ => 0b101000
  | .read _ => 0b101001
  | .calUptime => 0b110000
  | .calPin _ _ => 0b110001
  | .calRestore => 0b110010
  | .calBudget _ _ _ _ _ => 0b110011

/-- The operand lanes of an operation (R99, R126, R129; log 24). -/
def Instr.args : Instr → OpArgs
  | .configure rate => { rate }
  | .transaction addr wlen buf rlen => { addr, wlen, buf, rlen }
  | .delay n => { ticks := n }
  | .writeBit bit => { bit }
  | .writeByte byte => { byte }
  | .writeAddress byte => { byte }
  | .write n buf => { wlen := n, buf }
  | .read n => { rlen := n }
  | .calPin pin u => { pin, u }
  | .calBudget h l u cs cd => { h, l, u, cs, cd }
  | .stStart | .stRepeatedStart | .stWriteAddress | .stWrite | .stRead | .stSendStop | .stBusError | .stDone
  | .sendStart | .sendStop | .readBit | .readByte | .calUptime | .calRestore => {}

/-- The word of an operation. -/
def encode (i : Instr) : OpWord := { op := i.op, args := i.args }

/-- The class of an operation (R98). -/
def Instr.opClass : Instr → OpClass
  | .configure _ | .transaction _ _ _ _ => .host
  | .stStart | .stRepeatedStart | .stWriteAddress | .stWrite | .stRead | .stSendStop | .stBusError | .stDone => .seq
  | .delay _ | .sendStart | .sendStop | .writeBit _ | .readBit | .writeByte _ | .readByte | .writeAddress _
  | .write _ _ | .read _ => .eng
  | .calUptime | .calPin _ _ | .calRestore | .calBudget _ _ _ _ _ => .cal

/-- The two bits `class[1:0]` (R98). -/
def OpClass.code : OpClass → BitVec 2
  | .host => 0b00
  | .seq => 0b01
  | .eng => 0b10
  | .cal => 0b11

/-- A word of the opcode table, its bits numbered as the table numbers them: one byte, and every operand lane 0. A
number that does not fit `nbits` bits, or one byte, is no word: it takes a code that names no operation. -/
def tableWord (nbits w : Nat) : OpWord :=
  if w < 2 ^ min nbits 8 then { op := BitVec.ofNat 8 w } else { op := 0xFF }

/-- What the decoder reads from a word of the opcode table. The table gives a row 6 bits, one byte; every bit above
`nbits` is 0. -/
def decodeTableWord (nbits w : Nat) : Option Instr := (decode (tableWord nbits w)).toOption

end Sys2Proof
end

