-- ==== Sys2Proof/Machine/State.lean ====
section
/-!
DEFINITION. The state of the block and of what its rules reach (10_state.md R20 to R44, 20_memory.md R60), why a step can stop, and
the state after reset.
-/

namespace Sys2Proof.Machine

/-- The sequencer state register `STATE`, 3 bits, all eight values legal (R25). -/
inductive SeqState where
  | start
  | repeatedStart
  | writeAddress
  | write
  | read
  | sendStop
  | busError
  | done
  deriving DecidableEq, Repr

/-- The result of a command, and the contents of the error latch `ERR` (R29, R97, R210). -/
inductive Result where
  /-- `NONE`: success. -/
  | none
  /-- `UnsupportedOperation` (R211): CONFIGURE only. -/
  | unsupportedOperation
  /-- `NoSuchDevice` (R212): the address byte was not acknowledged. -/
  | noSuchDevice
  /-- `IoError` (R213): a data byte was not acknowledged. -/
  | ioError
  /-- `Timeout(e)` (R215): the callback's failure, "propagated verbatim". -/
  | timeout (e : TimeoutErr)
  deriving DecidableEq, Repr

/-- What an engine or calibrator operation returns to the rule that invoked it (R98, 41 and 40). -/
inductive Ret where
  /-- `ok`, or the return of an operation that returns nothing -/
  | ok
  /-- READ_BIT: the sampled bit (R153) -/
  | bit (b : Bit)
  /-- WRITE_BYTE: `ok(acknowledged)` (R154) -/
  | acknowledged (a : Bool)
  /-- READ_BYTE: the byte (R155) -/
  | byte (v : Byte)
  /-- `fail(K)`: WRITE_ADDRESS and WRITE on a NACK (R157, R158) -/
  | fail (k : Result)
  /-- `abort(e)`: the callback failed in the clock-stretch loop (R152, R156) -/
  | abort (e : TimeoutErr)
  /-- CAL_UPTIME and CAL_PIN: a tick count (R125, R126) -/
  | ticks (t : Tick)
  /-- CAL_BUDGET: `(hb, lb)` (R129) -/
  | budgets (hb lb : Tick)
  deriving DecidableEq, Repr

/-- An event of the trace (R10, R104). -/
inductive Event where
  /-- `SCL=b`, `SDA=b` -/
  | set (p : Pin) (b : Bit)
  /-- `SCL?b`, `SDA?b` -/
  | get (p : Pin) (b : Bit)
  /-- `U>t` -/
  | uptime (t : Tick)
  /-- `T!ok`, `T!fail(e)` -/
  | poll (r : PollAnswer)
  /-- `D(n)` -/
  | delay (n : Tick)
  /-- `WB[i]>v` -/
  | readWbuf (i : Nat) (v : Byte)
  /-- `RB[i]<v` -/
  | wroteRbuf (i : Nat) (v : Byte)
  deriving DecidableEq, Repr

/-- A buffer space: the bytes at the listed indices, indices strictly rising; an index not listed holds no value
(R60, R62; "unwritten", 95 Part 3). -/
abbrev Memory := List Host.Cell

/-- One micro-operation: a piece of an operation's pseudocode between two places where it may have to wait for the
environment (R27). An operation is a list of them (Machine/Engine.lean, Calibrator.lean, Sequencer.lean). -/
inductive Micro where
  /-- `PinSet(p, b)` -/
  | set (p : Pin) (b : Bit)
  /-- `PinSet(SDA, SHREG[7])` (R154) -/
  | setMsb
  /-- `PinSet(SDA, if RCUR < RLEN then 0 else 1)` (R187) -/
  | setAck
  /-- the clock-stretch loop of WRITE_BIT, at `v <- PinGet(SCL)` (R152) -/
  | stretch
  /-- the same loop, at `r <- Poll()` (R152) -/
  | stretchPoll
  /-- `Delay(n)` (R131) -/
  | delay (n : Tick)
  /-- `Delay(HIGH_BUDGET)` -/
  | delayHigh
  /-- `Delay(LOW_BUDGET)` -/
  | delayLow
  /-- DELAY at `s <- Uptime()` -/
  | delayStart (n : Tick)
  /-- DELAY's loop, at `c <- Uptime()`, with its start reading -/
  | delayLoop (n start : Tick)
  /-- `b <- PinGet(SDA)` (R153) -/
  | sample
  /-- `SHREG <- byte; BITCNT <- 0` (R154, R155) -/
  | loadByte (byte : Byte)
  /-- `SHREG <- {SHREG[6:0], 0}; BITCNT <- BITCNT + 1` (R154) -/
  | shiftOut
  /-- `SHREG <- {SHREG[6:0], b}; BITCNT <- BITCNT + 1` (R155) -/
  | shiftIn
  /-- `ACKBIT <- b` (R154) -/
  | latchAck
  /-- `if r = ok(false) then return fail(K)` (R157, R158) -/
  | failOnNack (k : Result)
  /-- `buf[k] <- v` (R159) -/
  | storeSink (k : Nat)
  /-- `buf[k]` for a `k` at which WRITE's operand holds no byte (outside R99's domain) -/
  | missingByte
  /-- `MemWrite(RBUF, RCUR, 1, v); RCUR <- RCUR + 1` (R187) -/
  | storeRbuf
  /-- the end of action(write_address) (R185) -/
  | afterAddress
  /-- the end of action(write) (R186) -/
  | afterWrite
  /-- the end of action(read) (R187) -/
  | afterRead
  /-- `STATE <- st` (R183, R184, R188, R189) -/
  | goto (st : SeqState)
  /-- `t0 <- Uptime()`, `ta <- Uptime()` (R125, R126) -/
  | markUptime
  /-- `t1 <- Uptime()` and CAL_UPTIME's difference (R125) -/
  | lapUptime
  /-- `tb <- Uptime()` and CAL_PIN's difference (R126) -/
  | lapPin (p : Pin)
  /-- CAL_BUDGET and the commit at the end of CONFIGURE (R129, R130) -/
  | commit (h l : Tick)
  deriving DecidableEq, Repr

/-- The position below `STATE` (R27), which "the spec does not make a register". -/
inductive Pos where
  /-- between operations -/
  | idle
  /-- at the head of a sequencer step, waiting for the answer of its `Poll()` (R182) -/
  | polling
  /-- the rules are about to perform the operation in this word (log 10) -/
  | perform (w : OpWord)
  /-- inside operation `i`, with the micro-operations still to do -/
  | running (i : Instr) (todo : List Micro)
  deriving DecidableEq, Repr

/-- The environment's side of the read primitives (R11, R42): answers it has given and the block has not yet taken, oldest
first, the clock's previous answer (R40), and the counter of free values (log 4). -/
structure Env where
  scl : List Bit := []
  sda : List Bit := []
  poll : List PollAnswer := []
  up : List Tick := []
  lastUp : Tick := 0
  draws : Nat := 0
  deriving DecidableEq, Repr

/-- Local variables of the pseudocode (log 21). -/
structure Locals where
  /-- `b` of WRITE_BYTE and READ_BYTE, the bit READ_BIT returned -/
  bit : Bit := false
  /-- `t0` of CAL_UPTIME, `ta` of CAL_PIN -/
  mark : Tick := 0
  /-- `u` -/
  u : Tick := 0
  /-- `cs` -/
  cs : Tick := 0
  /-- `cd` -/
  cd : Tick := 0
  deriving DecidableEq, Repr

/-- How the last TRANSACTION ended: what the host's view of RBUF depends on (20_memory.md R64; log 15). -/
structure TxnEnd where
  /-- the result that TRANSACTION returned -/
  result : Result
  /-- the number of events when it returned, which tells one return from another -/
  moment : Nat
  deriving DecidableEq, Repr

/-- The state. The first group is "the block's state ... exactly" (R20); the second is what the host and the platform
own and the primitives reach (R60); the third is the position inside a command (R27) and the ports. -/
structure State where
  /-- `DUTY_NUM` (C0, R32) -/
  dutyNum : Nat
  /-- `DUTY_DEN` (C0, R32) -/
  dutyDen : Nat
  /-- `ADDR` (G0) -/
  addr : Address
  /-- `WLEN` (G1), of `LEN_W` bits -/
  wlen : Nat
  /-- `RLEN` (G2), of `LEN_W` bits -/
  rlen : Nat
  /-- `WCUR` (G3), of `LEN_W` bits -/
  wcur : Nat
  /-- `RCUR` (G4), of `LEN_W` bits -/
  rcur : Nat
  /-- `SHREG` (G5) -/
  shreg : Byte
  /-- `BITCNT` (G6) -/
  bitcnt : BitVec 4
  /-- `ACKBIT` (G7) -/
  ackbit : Bit
  /-- `STATE` (R25) -/
  seqState : SeqState
  /-- `HIGH_TICKS` (C1) -/
  highTicks : Tick
  /-- `LOW_TICKS` (C2) -/
  lowTicks : Tick
  /-- `UPTIME_OVH` (C3) -/
  uptimeOvh : Tick
  /-- `SCL_OVH` (C4) -/
  sclOvh : Tick
  /-- `SDA_OVH` (C5) -/
  sdaOvh : Tick
  /-- `HIGH_BUDGET` (C6) -/
  highBudget : Tick
  /-- `LOW_BUDGET` (C7) -/
  lowBudget : Tick
  /-- `CONFIGURED` (C8, R30) -/
  configured : Bool
  /-- `ERR` (C9, R29) -/
  err : Result
  /-- `SCL_OUT` (C10, R36) -/
  sclOut : Bit
  /-- `SDA_OUT` (C11, R36) -/
  sdaOut : Bit
  /-- `F_CLK`, the clock's constant `frequency()` (R7, R40) -/
  fClk : Nat
  /-- `LEN_W`, the width of lengths and cursors: an OPEN parameter, constant (R7, D28; log 1) -/
  lenW : Nat
  /-- WBUF (R60) -/
  wbuf : Memory
  /-- RBUF, as the block has written it (R60, R64) -/
  rbuf : Memory
  /-- the sink that is READ's operand (R159; log 13) -/
  sink : Memory
  /-- the environment (R11) -/
  env : Env
  /-- the pseudocode's local variables (log 21) -/
  loc : Locals
  /-- the position below `STATE` (R27) -/
  pos : Pos
  /-- a TRANSACTION has been accepted and has not returned (R180, R247) -/
  inTxn : Bool
  /-- the command the host is presenting (R247; log 12) -/
  port : Option OpWord
  /-- the commands the host issues next, each when the one before it has returned (R72; log 12) -/
  queue : List OpWord
  /-- the result the last command returned; none while a command runs, and before the first (D29) -/
  reply : Option Result
  /-- how the last TRANSACTION ended; none while one runs, and before the first (R64; log 15) -/
  txnEnd : Option TxnEnd
  /-- what the last engine or calibrator operation returned (log 11) -/
  ret : Option Ret
  /-- the events so far, oldest first (R11) -/
  trace : List Event
  deriving DecidableEq, Repr

/-- Why the machine stops with a fault. -/
inductive Fault where
  /-- `MemRead(WBUF, i, 1)` with `i` outside `0 .. WLEN-1`, or where the host gave no byte: "no meaning (fault)" (R62).
  Raised by ST_WRITE. Safe: the machine stops. -/
  | wbufRange
  /-- `MemWrite(RBUF, i, 1, v)` with `i` outside `0 .. RLEN-1`: "no meaning (fault)" (R63). Raised by ST_READ. Safe: the
  machine stops. -/
  | rbufRange
  /-- `buf[k]` of WRITE at an index where its operand holds no byte: the operand is outside R99's domain. Raised by WRITE
  only for an ill-formed operand. Safe: the machine stops. -/
  | operandRange
  deriving DecidableEq, Repr

/-- Why a command or operation is given no meaning (R225): "the block changes no state and emits no event". -/
inductive Refusal where
  /-- An instruction the model gives no meaning yet. Raised by no instruction of this model. Safe: nothing is claimed. -/
  | notModelled (mnemonic : String)
  /-- CONFIGURE with `clock_rate = 0` (R121). Raised by CONFIGURE. Safe: the spec refuses it. -/
  | clockRateZero
  /-- TRANSACTION while `CONFIGURED = 0` (R181). Raised by TRANSACTION. Safe: the spec refuses it. -/
  | notConfigured
  /-- A command while another is in progress (R247). Raised by CONFIGURE, by TRANSACTION and by a step that finds the
  command port occupied. Safe: the spec refuses it. -/
  | commandInProgress
  /-- A command word whose code is not CONFIGURE or TRANSACTION, or any word that is no operation (R101). Raised by a
  step. Safe: the spec refuses it. -/
  | notACommand
  /-- A word whose buffer operand is not as long as its length says, outside R99's domain. Raised by a step. Safe: nothing is
  claimed. -/
  | illFormed
  /-- Construction with `DUTY_DEN = 0` or `DUTY_NUM > DUTY_DEN` (R32). Raised by `State.construct`. Safe: the spec refuses
  it. -/
  | illegalDuty
  /-- Construction with `F_CLK = 0`, which R7 excludes ("a natural number > 0"). Raised by `State.construct`. Safe: no block is
  built (log 2). -/
  | illegalClock
  /-- TRANSACTION with a length that is no `LEN_W`-bit natural, outside R99's domain. Raised by TRANSACTION. Safe: nothing is
  claimed (log 18). -/
  | lengthTooWide
  deriving DecidableEq, Repr

/-- The block right after it is constructed with clock frequency `fClk`, duty cycle `num / den` and lengths of `lenW` bits (R7, R44, R240, R241):
`STATE = done`, `ERR = NONE`, `CONFIGURED = 0`, both latches 1, `DUTY` as given, no event. The registers the spec leaves
unspecified are 0 (DESIGN CHOICE, unsafe: log 3). -/
def State.constructed (fClk num den lenW : Nat) : State where
  dutyNum := num
  dutyDen := den
  addr := 0
  wlen := 0
  rlen := 0
  wcur := 0
  rcur := 0
  shreg := 0
  bitcnt := 0
  ackbit := false
  seqState := .done
  highTicks := 0
  lowTicks := 0
  uptimeOvh := 0
  sclOvh := 0
  sdaOvh := 0
  highBudget := 0
  lowBudget := 0
  configured := false
  err := .none
  sclOut := true
  sdaOut := true
  fClk := fClk
  lenW := lenW
  wbuf := []
  rbuf := []
  sink := []
  env := {}
  loc := {}
  pos := .idle
  inTxn := false
  port := none
  queue := []
  reply := none
  txnEnd := none
  ret := none
  trace := []

/-- The machine right after reset: constructed with the default `DUTY` = 1/2 (R44), the default `LEN_W` (R7) and the default
clock (log 2). -/
def State.reset : State :=
  State.constructed Config.defaultFClk Config.defaultDutyNum Config.defaultDutyDen Config.defaultLenW

end Sys2Proof.Machine
end

