-- ==== Sys2Proof/Machine/Memory.lean ====
section
/-!
DEFINITION. The buffer spaces as sparse byte memories in one canonical form (20_memory.md R60 to R64, R69): a list of
(index, byte) with strictly rising indices. An index that is not listed reads as no value, so no entry can equal what an
unlisted index reads as.
-/

namespace Sys2Proof.Machine

/-- The byte at index `a`, if it holds one. -/
def Memory.read : Memory → Nat → Option Byte
  | [], _ => none
  | (b, v) :: m, a => if a = b then some v else Memory.read m a

/-- Store `v` at index `a`, keeping the indices rising. -/
def Memory.write : Memory → Nat → Byte → Memory
  | [], a, v => [(a, v)]
  | (b, w) :: m, a, v =>
    if a < b then (a, v) :: (b, w) :: m
    else if a = b then (a, v) :: m
    else (b, w) :: Memory.write m a v

/-- Every listed index is above `lo`, and they rise strictly. -/
def Memory.risesFrom : Nat → Memory → Bool
  | _, [] => true
  | lo, (a, _) :: m => decide (lo ≤ a) && Memory.risesFrom (a + 1) m

/-- The canonical form: strictly rising indices. -/
def Memory.wf (m : Memory) : Bool := Memory.risesFrom 0 m

/-- The bytes `bs` at indices `k`, `k + 1`, … -/
def Memory.ofBytesFrom : Nat → List Byte → Memory
  | _, [] => []
  | k, b :: bs => (k, b) :: Memory.ofBytesFrom (k + 1) bs

/-- A buffer of bytes, the first at index 0 (R67). -/
def Memory.ofBytes (bs : List Byte) : Memory := Memory.ofBytesFrom 0 bs

end Sys2Proof.Machine
end

