-- ==== Sys2Proof/Machine/Operands.lean ====
section
/-!
DEFINITION. Codes, operand assembly and tick arithmetic: the codes of `STATE` and of results (30_encoding.md R96, R97), the
address byte (R90), the shift steps (R100), the tick conversion (40_configure_and_calibrator.md R123), clock differences and
saturating subtraction (R9, R125, R126, R129, R133).
-/

namespace Sys2Proof.Machine

/-- The code of a sequencer state (R96). -/
def SeqState.code : SeqState → BitVec 3
  | .start => 0b000
  | .repeatedStart => 0b001
  | .writeAddress => 0b010
  | .write => 0b011
  | .read => 0b100
  | .sendStop => 0b101
  | .busError => 0b110
  | .done => 0b111

/-- The sequencer state with a code: all eight are legal (R25). -/
def SeqState.ofCode (c : BitVec 3) : SeqState :=
  match c.toNat with
  | 0 => .start
  | 1 => .repeatedStart
  | 2 => .writeAddress
  | 3 => .write
  | 4 => .read
  | 5 => .sendStop
  | 6 => .busError
  | _ => .done

/-- The code of a result (R97); 5 to 7 are never produced. -/
def Result.code : Result → BitVec 3
  | .none => 0
  | .unsupportedOperation => 1
  | .noSuchDevice => 2
  | .ioError => 3
  | .timeout _ => 4

/-- The operation `STATE` selects: "for the SEQ class `index[2:0]` equals the `STATE` code" (R98). -/
def SeqState.instr : SeqState → Instr
  | .start => .stStart
  | .repeatedStart => .stRepeatedStart
  | .writeAddress => .stWriteAddress
  | .write => .stWrite
  | .read => .stRead
  | .sendStop => .stSendStop
  | .busError => .stBusError
  | .done => .stDone

/-- `address_byte = {ADDR[6:0], RW}` (R90). -/
def addressByte (addr : Address) (rw : Bit) : Byte := addr ++ BitVec.ofBool rw

/-- "`RW <- if WCUR < WLEN then 0 else 1`" (R185). -/
def rwBit (s : State) : Bit := !decide (s.wcur < s.wlen)

/-- A length is a `LEN_W`-bit natural (R7, R99; log 18). -/
def lengthFits (s : State) (n : Nat) : Bool := decide (n < 2 ^ s.lenW)

/-- Bit 7 of the shift register, the next bit of a sent byte (R154). -/
def msb (b : Byte) : Bit := b.getLsbD 7

/-- `{SHREG[6:0], b}` (R100). -/
def shiftIn (sh : Byte) (b : Bit) : Byte := BitVec.setWidth 7 sh ++ BitVec.ofBool b

/-- The bit cell by which a received byte is acknowledged: "ACKs (writes bit 0)" while more bytes are wanted, "NACKs
(writes bit 1)" after the last (R93, R187). -/
def ackCell (more : Bool) : Bit := !more

/-- `a ∸ b` on tick counts: never negative, never wraps (R9, R133). -/
def satSub (a : Tick) (b : Nat) : Tick := BitVec.ofNat 64 (a.toNat - b)

/-- `(b − a) mod 2^TICK_W` (R133). -/
def elapsed (a b : Tick) : Tick := b - a

/-- A tick count in a tick register: itself when it fits `TICK_W` bits, else a free value (R133; log 14). -/
def tickOfNat (n : Nat) : Tick := if n < 2 ^ 64 then BitVec.ofNat 64 n else Config.tickOutOfRange n

/-- `floor(F_CLK × part / (DUTY_DEN × clock_rate))`: "one integer division of the full product by the full divisor"
(R123). -/
def ticksOf (fClk part den rate : Nat) : Nat := fClk * part / (den * rate)

/-- `HIGH_TICKS` for a rate (R123). -/
def highTicksFor (s : State) (rate : Nat) : Tick := tickOfNat (ticksOf s.fClk s.dutyNum s.dutyDen rate)

/-- `LOW_TICKS` for a rate (R123). -/
def lowTicksFor (s : State) (rate : Nat) : Tick :=
  tickOfNat (ticksOf s.fClk (s.dutyDen - s.dutyNum) s.dutyDen rate)

/-- `ovh <- u + cs + cd`, "on naturals" (R129). -/
def overhead (u cs cd : Tick) : Nat := u.toNat + cs.toNat + cd.toNat

/-- CAL_BUDGET's `h ∸ ovh` or `l ∸ ovh` (R129). -/
def budget (ticks u cs cd : Tick) : Tick := satSub ticks (overhead u cs cd)

/-- CAL_PIN's `((tb − ta) mod 2^TICK_W) ∸ u` (R126). -/
def pinOverhead (ta tb u : Tick) : Tick := satSub (elapsed ta tb) u.toNat

/-- The clock's law: "each answer is greater than or equal to the previous answer", and it does not wrap (R40; log 5). -/
def clockAnswer (last t : Tick) : Tick := if last ≤ t then t else last

/-- DELAY's exit test `((c − s) mod 2^TICK_W) ≥ n` (R131). -/
def delayOver (n start c : Tick) : Bool := decide (n ≤ elapsed start c)

end Sys2Proof.Machine
end

