-- ==== Sys2Proof/Machine/Flags.lean ====
section
/-!
DEFINITION. The one condition code and the error latch: the polarity of `ACKBIT` (30_encoding.md R93, 10_state.md R28) and the
rule that the first error is kept (R29, R219).
-/

namespace Sys2Proof.Machine

/-- "ACK bit value `0` ⇒ acknowledged (`true`); `1` ⇒ not acknowledged (`false`)" (R93). -/
def acknowledged (ackbit : Bit) : Bool := !ackbit

/-- `if ERR = NONE then ERR <- K` (R29, R214, R219). -/
def latchError (err k : Result) : Result := if err = .none then k else err

/-- `ERR` holds one of its legal values, codes 0, 2, 3, 4 (R31): CONFIGURE does not use `ERR` (R29). -/
def Result.legalErr : Result → Bool
  | .unsupportedOperation => false
  | .none | .noSuchDevice | .ioError | .timeout _ => true

end Sys2Proof.Machine
end

