-- ==== Sys2Proof/Machine/Ops.lean ====
section
/-!
DEFINITION. The primitives of 00_scope.md R10, "the only ways a rule touches state or the outside", the two unbounded loops
(R131, R152), taking an error and returning from one (R182, R214, R220, R221), and the host's view of RBUF (R64).
-/

namespace Sys2Proof.Machine

/-- Append an event to the trace (R11, R72). -/
def emit (e : Event) (s : State) : State := { s with trace := s.trace ++ [e] }

/-- `PinSet(p, b)`: write the latch of `p`; "emits its event even when `b` equals the latch's current value" (R36). -/
def pinSet (p : Pin) (b : Bit) (s : State) : State :=
  match p with
  | .scl => emit (.set .scl b) { s with sclOut := b }
  | .sda => emit (.set .sda b) { s with sdaOut := b }

/-- `PinGet(SCL)`: the bit the environment answers (R39); none while it has not answered. -/
def takeScl (s : State) : Option (Bit × State) :=
  match s.env.scl with
  | [] => none
  | v :: vs => some (v, emit (.get .scl v) { s with env := { s.env with scl := vs } })

/-- `PinGet(SDA)` (R39). -/
def takeSda (s : State) : Option (Bit × State) :=
  match s.env.sda with
  | [] => none
  | v :: vs => some (v, emit (.get .sda v) { s with env := { s.env with sda := vs } })

/-- `Poll()`: one invocation of the caller's timeout callback (R66). -/
def takePoll (s : State) : Option (PollAnswer × State) :=
  match s.env.poll with
  | [] => none
  | r :: rs => some (r, emit (.poll r) { s with env := { s.env with poll := rs } })

/-- `Uptime()`: one read of the steady clock, under the law of R40. -/
def takeUptime (s : State) : Option (Tick × State) :=
  match s.env.up with
  | [] => none
  | t :: ts =>
    let c := clockAnswer s.env.lastUp t
    some (c, emit (.uptime c) { s with env := { s.env with up := ts, lastUp := c } })

/-- What a read primitive is answered by (R11). -/
inductive Source where
  | scl
  | sda
  | poll
  | up
  deriving DecidableEq, Repr

/-- The environment answers a read the block is waiting for: with the answer already given, or else with a free value
(R11, U12 to U14; log 4). -/
def feed (src : Source) (s : State) : State :=
  match src with
  | .scl =>
    match s.env.scl with
    | [] => { s with env := { s.env with scl := [Config.freeScl s.env.draws], draws := s.env.draws + 1 } }
    | _ :: _ => s
  | .sda =>
    match s.env.sda with
    | [] => { s with env := { s.env with sda := [Config.freeSda s.env.draws], draws := s.env.draws + 1 } }
    | _ :: _ => s
  | .poll =>
    match s.env.poll with
    | [] => { s with env := { s.env with poll := [Config.freePoll s.env.draws], draws := s.env.draws + 1 } }
    | _ :: _ => s
  | .up =>
    match s.env.up with
    | [] => { s with env := { s.env with up := [Config.freeUptime s.env.draws], draws := s.env.draws + 1 } }
    | _ :: _ => s

/-- `MemRead(WBUF, WCUR, 1)`: byte `WCUR` for `WCUR < WLEN`, no value out of range (R62, R74). -/
def memReadWbuf (s : State) : Option Byte :=
  if s.wcur < s.wlen then Memory.read s.wbuf s.wcur else none

/-- `MemWrite(RBUF, RCUR, 1, v)` for `RCUR < RLEN`, no meaning out of range (R63, R74). -/
def memWriteRbuf (v : Byte) (s : State) : Option State :=
  if s.rcur < s.rlen then
    some (emit (.wroteRbuf s.rcur v) { s with rbuf := Memory.write s.rbuf s.rcur v })
  else none

/-- How DELAY's loop ends on the clock answers given so far. -/
structure LoopEnd where
  /-- the loop has ended -/
  ended : Bool
  /-- the answers it read -/
  reads : List Tick
  /-- the answers it left -/
  rest : List Tick
  /-- the clock's latest answer -/
  last : Tick
  deriving DecidableEq, Repr

/-- DELAY's `repeat c <- Uptime() until ((c − s) mod 2^TICK_W) ≥ n`, as far as the answers `ts` reach (R131). -/
def spin (n start : Tick) : List Tick → Tick → LoopEnd
  | [], last => { ended := false, reads := [], rest := [], last := last }
  | t :: ts, last =>
    let c := clockAnswer last t
    if delayOver n start c then { ended := true, reads := [c], rest := ts, last := c }
    else
      let r := spin n start ts c
      { r with reads := c :: r.reads }

/-- The state after DELAY's loop has read as far as the answers reach (R131). -/
def afterSpin (s : State) (r : LoopEnd) : State :=
  { s with env := { s.env with up := r.rest, lastUp := r.last }, trace := s.trace ++ r.reads.map .uptime }

/-- How the clock-stretch loop of WRITE_BIT ends on the answers given so far (R152). -/
inductive Stretch where
  /-- SCL read 1: exit the loop -/
  | released (s : State)
  /-- the environment has not answered `PinGet(SCL)` -/
  | waitScl (s : State)
  /-- the environment has not answered `Poll()` -/
  | waitPoll (s : State)
  /-- the callback failed: `return abort(e)` -/
  | aborted (e : TimeoutErr) (s : State)

/-- The clock-stretch loop from `v <- PinGet(SCL)`, as far as the answers reach; the list is the answers to
`PinGet(SCL)` (R152). The line is tested before the callback is called (D16). -/
def stretchLoop : List Bit → State → Stretch
  | [], s => .waitScl s
  | v :: vs, s =>
    let s1 := emit (.get .scl v) { s with env := { s.env with scl := vs } }
    if v then .released s1
    else
      match takePoll s1 with
      | none => .waitPoll s1
      | some (.ok, s2) => stretchLoop vs s2
      | some (.fail e, s2) => .aborted e s2

/-- The clock-stretch loop from `r <- Poll()` (R152). -/
def stretchPollLoop (s : State) : Stretch :=
  match takePoll s with
  | none => .waitPoll s
  | some (.ok, s1) => stretchLoop s1.env.scl s1
  | some (.fail e, s1) => .aborted e s1

/-- TAKING AN ERROR, `raise K`: "`if ERR = NONE then ERR <- K; STATE <- bus_error;` and the current action ends there"
(R214). Saved: `K` in `ERR`, nothing else (R220). -/
def raise (k : Result) (s : State) : State := { s with err := latchError s.err k, seqState := .busError }

/-- The states whose action a failing per-step poll does not skip (R182). -/
def SeqState.stops : SeqState → Bool
  | .sendStop | .busError => true
  | .start | .repeatedStart | .writeAddress | .write | .read | .done => false

/-- A failing per-step poll "does the same except that it leaves `STATE` alone when the state is already `send_stop` or
`bus_error`" (R182, R214). -/
def pollFailed (e : TimeoutErr) (s : State) : State :=
  if s.seqState.stops then { s with err := latchError s.err (.timeout e) } else raise (.timeout e) s

/-- `return abort(e)`: "at the sequencer this becomes `raise Timeout(e)`" (R156); an operation performed on its own returns
it to its caller. -/
def abort (i : Instr) (e : TimeoutErr) (s : State) : State :=
  match i.opClass with
  | .seq => raise (.timeout e) s
  | .host | .eng | .cal => { s with ret := some (.abort e) }

/-- RETURN FROM A TRANSACTION: "the command returns `ERR`" (R190, R221); nothing is restored. The
host's view of RBUF rests on this result from now on (R64). -/
def returnToHost (s : State) : State :=
  { s with
    inTxn := false
    reply := some s.err
    txnEnd := some { result := s.err, moment := s.trace.length } }

/-- The block can take a command: no command is in progress (R223, R247). -/
def State.isIdle (s : State) : Bool := decide (s.pos = .idle) && decide (s.seqState = .done) && !s.inTxn

/-- What the host reads at index `i` of its read buffer once the TRANSACTION has returned (R72): the byte the block stored
after a TRANSACTION that ended with `NONE`, a free value for every byte after one that ended with an error (R64, U4; log
15), nothing before the return. It rests on the TRANSACTION's own result: a CONFIGURE after it, whatever it returns, leaves
the view as it is. DESIGN CHOICE: the spec does not name that sequence (log 15, 19). -/
def hostReadRbuf (s : State) (i : Nat) : Option Byte :=
  match s.txnEnd with
  | none => none
  | some e =>
    if e.result = .none then Memory.read s.rbuf i
    else if i < s.rlen then some (Config.unspecifiedByte e.moment i) else none

/-- Construction of the block, which is reset (R240). "A construction with `DUTY_DEN = 0` or `DUTY_NUM > DUTY_DEN` is
refused" (R32), and `F_CLK` is "> 0" (R7; log 2). `LEN_W` is any width (R7; log 1). -/
def State.construct (fClk num den lenW : Nat) : Host.Outcome State Fault Refusal :=
  if den = 0 ∨ num > den then .refused .illegalDuty
  else if fClk = 0 then .refused .illegalClock
  else .next (State.constructed fClk num den lenW)

end Sys2Proof.Machine
end

