-- ==== Sys2Proof/Machine/Transition.lean ====
section
/-!
DEFINITION. The ends of the sequencer's data-dependent actions: the choice of the next state by `ACKBIT` and the two cursor
comparisons (42_transaction_sequencer.md R185 to R187, R192).
-/

namespace Sys2Proof.Machine

/-- The successor when bytes of WBUF remain, else when bytes of RBUF remain, else the STOP (R185, R186, R192). -/
def successor (s : State) (more pending : SeqState) : SeqState :=
  if s.wcur < s.wlen then more else if s.rcur < s.rlen then pending else .sendStop

/-- The end of action(write_address): "`if ACKBIT = 1 then raise NoSuchDevice`", then the successor (R185). -/
def afterAddress (s : State) : State :=
  if acknowledged s.ackbit then { s with seqState := successor s .write .read } else raise .noSuchDevice s

/-- The end of action(write): the cursor advances before the acknowledge test (R186, D21). -/
def afterWrite (s : State) : State :=
  let s1 := { s with wcur := s.wcur + 1 }
  if acknowledged s1.ackbit then { s1 with seqState := successor s1 .write .repeatedStart } else raise .ioError s1

/-- The end of action(read): `STATE <- next` (R187). -/
def afterRead (s : State) : State := { s with seqState := if s.rcur < s.rlen then .read else .sendStop }

/-- CAL_BUDGET and the commit: the seven timing registers and `CONFIGURED` are written "all together, as the last act of a
successful CONFIGURE" (R129, R130), which returns `NONE` (R120). -/
def commit (h l : Tick) (s : State) : State :=
  { s with
    highTicks := h
    lowTicks := l
    uptimeOvh := s.loc.u
    sclOvh := s.loc.cs
    sdaOvh := s.loc.cd
    highBudget := budget h s.loc.u s.loc.cs s.loc.cd
    lowBudget := budget l s.loc.u s.loc.cs s.loc.cd
    configured := true
    reply := some .none }

end Sys2Proof.Machine
end

