-- ==== Sys2Proof/Machine/Micro.lean ====
section
/-!
DEFINITION. Running an operation's micro-operations (10_state.md R27: "a model may execute a whole action as one function from
the environment's answers to a list of events, or as micro-steps, provided the event trace is the same"). An operation
runs as far as the environment's answers reach; where it needs an answer that has not been given it keeps its position and
waits. A loop that its answers do not end is left waiting, so both loops of R249 can run for ever.
-/

namespace Sys2Proof.Machine

/-- How one micro-operation ends. -/
inductive Flow where
  /-- go on with the next -/
  | go (s : State)
  /-- wait for the environment at micro-operation `m` -/
  | wait (m : Micro) (s : State)
  /-- the operation ends here (`return`, `raise`) -/
  | halt (s : State)
  /-- no meaning -/
  | fault (f : Fault)

/-- The end of a pass of DELAY's loop. -/
def delayFlow (n start : Tick) (s : State) : Flow :=
  let r := spin n start s.env.up s.env.lastUp
  if r.ended then .go (afterSpin s r) else .wait (.delayLoop n start) (afterSpin s r)

/-- `s <- Uptime()` of DELAY, then its loop (R131). -/
def delayStartFlow (n : Tick) (s : State) : Flow :=
  match takeUptime s with
  | none => .wait (.delayStart n) s
  | some (start, s1) => delayFlow n start s1

/-- `Delay(n)`: `emit D(n)`, then the reads (R131). -/
def delayWhole (n : Tick) (s : State) : Flow := delayStartFlow n (emit (.delay n) s)

/-- The end of a pass of the clock-stretch loop in operation `i` (R152, R156). -/
def stretchFlow (i : Instr) : Stretch → Flow
  | .released s => .go s
  | .waitScl s => .wait .stretch s
  | .waitPoll s => .wait .stretchPoll s
  | .aborted e s => .halt (abort i e s)

/-- `t <- Uptime()` kept in a local variable by `keep`. -/
def uptimeInto (m : Micro) (keep : Tick → Locals → Locals) (s : State) : Flow :=
  match takeUptime s with
  | none => .wait m s
  | some (t, s1) => .go { s1 with loc := keep t s1.loc }

/-- CAL_PIN's result goes to `cs` or `cd` (R120). -/
def keepOverhead (p : Pin) (tb : Tick) (l : Locals) : Locals :=
  match p with
  | .scl => { l with cs := pinOverhead l.mark tb l.u }
  | .sda => { l with cd := pinOverhead l.mark tb l.u }

/-- One micro-operation of operation `i`. -/
def runMicro (i : Instr) (m : Micro) (s : State) : Flow :=
  match m with
  | .set p b => .go (pinSet p b s)
  | .setMsb => .go (pinSet .sda (msb s.shreg) s)
  | .setAck => .go (pinSet .sda (ackCell (decide (s.rcur < s.rlen))) s)
  | .stretch => stretchFlow i (stretchLoop s.env.scl s)
  | .stretchPoll => stretchFlow i (stretchPollLoop s)
  | .delay n => delayWhole n s
  | .delayHigh => delayWhole s.highBudget s
  | .delayLow => delayWhole s.lowBudget s
  | .delayStart n => delayStartFlow n s
  | .delayLoop n start => delayFlow n start s
  | .sample =>
    match takeSda s with
    | none => .wait .sample s
    | some (b, s1) => .go { s1 with loc := { s1.loc with bit := b } }
  | .loadByte byte => .go { s with shreg := byte, bitcnt := 0 }
  | .shiftOut => .go { s with shreg := shiftIn s.shreg false, bitcnt := s.bitcnt + 1 }
  | .shiftIn => .go { s with shreg := shiftIn s.shreg s.loc.bit, bitcnt := s.bitcnt + 1 }
  | .latchAck => .go { s with ackbit := s.loc.bit }
  | .failOnNack k => if acknowledged s.ackbit then .go s else .halt { s with ret := some (.fail k) }
  | .storeSink k => .go { s with sink := Memory.write s.sink k s.shreg }
  | .missingByte => .fault .operandRange
  | .storeRbuf =>
    match memWriteRbuf s.shreg s with
    | none => .fault .rbufRange
    | some s1 => .go { s1 with rcur := s1.rcur + 1 }
  | .afterAddress => .go (afterAddress s)
  | .afterWrite => .go (afterWrite s)
  | .afterRead => .go (afterRead s)
  | .goto st => .go { s with seqState := st }
  | .markUptime => uptimeInto .markUptime (fun t l => { l with mark := t }) s
  | .lapUptime => uptimeInto .lapUptime (fun t l => { l with u := elapsed l.mark t }) s
  | .lapPin p => uptimeInto (.lapPin p) (keepOverhead p) s
  | .commit h l => .go (commit h l s)

/-- What operation `i` returns when it has come to its end; a sequencer state and a host command return nothing here. -/
def returned (i : Instr) (s : State) : Option Ret :=
  match i with
  | .delay _ | .sendStart | .sendStop | .writeBit _ | .writeAddress _ | .write _ _ | .read _ | .calRestore => some .ok
  | .readBit => some (.bit s.loc.bit)
  | .writeByte _ => some (.acknowledged (acknowledged s.ackbit))
  | .readByte => some (.byte s.shreg)
  | .calUptime => some (.ticks s.loc.u)
  | .calPin .scl _ => some (.ticks s.loc.cs)
  | .calPin .sda _ => some (.ticks s.loc.cd)
  | .calBudget h l u cs cd => some (.budgets (budget h u cs cd) (budget l u cs cd))
  | .configure _ | .transaction _ _ _ _ | .stStart | .stRepeatedStart | .stWriteAddress | .stWrite | .stRead
  | .stSendStop | .stBusError | .stDone => s.ret

/-- Operation `i` is complete. -/
def finish (i : Instr) (s : State) : State := { s with ret := returned i s, pos := .idle }

/-- Run the micro-operations of operation `i` as far as the environment's answers reach. -/
def runMicros (i : Instr) : List Micro → State → Host.Outcome State Fault Refusal
  | [], s => .next (finish i s)
  | m :: ms, s =>
    match runMicro i m s with
    | .go s1 => runMicros i ms s1
    | .wait m1 s1 => .next { s1 with pos := .running i (m1 :: ms) }
    | .halt s1 => .next { s1 with pos := .idle }
    | .fault f => .fault f

/-- The read a micro-operation waits for, if it waits. -/
def Micro.needs : Micro → Option Source
  | .stretch => some .scl
  | .stretchPoll => some .poll
  | .delayStart _ | .delayLoop _ _ | .markUptime | .lapUptime | .lapPin _ => some .up
  | .sample => some .sda
  | .set _ _ | .setMsb | .setAck | .delay _ | .delayHigh | .delayLow | .loadByte _ | .shiftOut | .shiftIn | .latchAck
  | .failOnNack _ | .storeSink _ | .missingByte | .storeRbuf | .afterAddress | .afterWrite | .afterRead | .goto _
  | .commit _ _ => none

/-- The environment answers the read that the first of `todo` waits for. -/
def feedFor (todo : List Micro) (s : State) : State :=
  match todo with
  | [] => s
  | m :: _ =>
    match m.needs with
    | none => s
    | some src => feed src s

end Sys2Proof.Machine
end

