-- ==== Sys2Proof/Machine/Engine.lean ====
section
/-!
DEFINITION. The engine's operations, class ENG: DELAY (40_configure_and_calibrator.md R131) and the wire-level operations
(41_wire_primitives.md R150 to R159). Each program is its rule's pseudocode in order.
-/

namespace Sys2Proof.Machine

/-- SEND_START (R150). -/
def startProgram : List Micro :=
  [.set .sda true, .set .scl true, .delayHigh, .set .sda false, .delayHigh, .set .scl false, .delayLow]

/-- SEND_STOP (R151). -/
def stopProgram : List Micro :=
  [.set .sda false, .set .scl true, .delayHigh, .set .sda true, .delayHigh]

/-- WRITE_BIT, its first `PinSet` being `drive` (R152). -/
def writeCell (drive : Micro) : List Micro :=
  [drive, .set .scl true, .stretch, .delayHigh, .set .scl false, .delayLow]

/-- READ_BIT (R153). -/
def readCell : List Micro :=
  [.set .sda true, .set .scl true, .delayHigh, .sample, .set .scl false, .delayLow]

/-- WRITE_BYTE: eight cells from bit 7 down, then the acknowledge cell (R154). -/
def writeByteProgram (byte : Byte) : List Micro :=
  .loadByte byte :: (List.replicate 8 (writeCell .setMsb ++ [.shiftOut])).flatten ++ readCell ++ [.latchAck]

/-- READ_BYTE: eight cells, the first bit received ends in bit 7 (R155). -/
def readByteProgram : List Micro :=
  .loadByte 0 :: (List.replicate 8 (readCell ++ [.shiftIn])).flatten

/-- WRITE_ADDRESS: "Wraps `write_byte`; on NACK, fails with `NoSuchDevice`" (R157). -/
def writeAddressProgram (byte : Byte) : List Micro := writeByteProgram byte ++ [.failOnNack .noSuchDevice]

/-- WRITE: each byte by WRITE_BYTE, "on any NACK mid-buffer, fails with `IoError`" (R158). -/
def writeProgram (n : Nat) (buf : List Byte) : List Micro :=
  (buf.take n).flatMap (fun b => writeByteProgram b ++ [.failOnNack .ioError]) ++
    if buf.length < n then [.missingByte] else []

/-- READ: each byte by READ_BYTE, stored, then acknowledged with 0 for every byte but the last (R159). -/
def readProgram (n : Nat) : List Micro :=
  (List.range n).flatMap fun k =>
    readByteProgram ++ [.storeSink k] ++ writeCell (.set .sda (ackCell (decide (k + 1 < n))))

/-- An operation is invoked: it has returned nothing yet. -/
def invoke (i : Instr) (program : List Micro) (s : State) : Host.Outcome State Fault Refusal :=
  runMicros i program { s with ret := none }

/-- DELAY (R131). -/
def execDelay (n : Tick) (s : State) : Host.Outcome State Fault Refusal := invoke (.delay n) [.delay n] s

/-- SEND_START (R150). -/
def execSendStart (s : State) : Host.Outcome State Fault Refusal := invoke .sendStart startProgram s

/-- SEND_STOP (R151). -/
def execSendStop (s : State) : Host.Outcome State Fault Refusal := invoke .sendStop stopProgram s

/-- WRITE_BIT (R152). -/
def execWriteBit (bit : Bit) (s : State) : Host.Outcome State Fault Refusal :=
  invoke (.writeBit bit) (writeCell (.set .sda bit)) s

/-- READ_BIT (R153). -/
def execReadBit (s : State) : Host.Outcome State Fault Refusal := invoke .readBit readCell s

/-- WRITE_BYTE (R154). -/
def execWriteByte (byte : Byte) (s : State) : Host.Outcome State Fault Refusal :=
  invoke (.writeByte byte) (writeByteProgram byte) s

/-- READ_BYTE (R155). -/
def execReadByte (s : State) : Host.Outcome State Fault Refusal := invoke .readByte readByteProgram s

/-- WRITE_ADDRESS (R157). -/
def execWriteAddress (byte : Byte) (s : State) : Host.Outcome State Fault Refusal :=
  invoke (.writeAddress byte) (writeAddressProgram byte) s

/-- WRITE (R158). -/
def execWrite (n : Nat) (buf : List Byte) (s : State) : Host.Outcome State Fault Refusal :=
  invoke (.write n buf) (writeProgram n buf) s

/-- READ into an empty sink (R159). -/
def execRead (n : Nat) (s : State) : Host.Outcome State Fault Refusal :=
  invoke (.read n) (readProgram n) { s with sink := [] }

end Sys2Proof.Machine
end

