-- ==== Sys2Proof/Machine/Calibrator.lean ====
section
/-!
DEFINITION. The clock_timing_calibrator, class CAL (40_configure_and_calibrator.md R125 to R129), and the host command CONFIGURE (R120,
R121, R130).
-/

namespace Sys2Proof.Machine

/-- CAL_UPTIME: two consecutive clock reads (R125). -/
def calUptimeProgram : List Micro := [.markUptime, .lapUptime]

/-- CAL_PIN: one `PinSet(pin, 0)` between two clock reads (R126). -/
def calPinProgram (p : Pin) : List Micro := [.markUptime, .set p false, .lapPin p]

/-- CAL_RESTORE: SCL first, then SDA (R127). -/
def calRestoreProgram : List Micro := [.set .scl true, .set .sda true]

/-- CONFIGURE after its precondition, in the order of R120 and R128. -/
def configureProgram (h l : Tick) : List Micro :=
  calUptimeProgram ++ calPinProgram .scl ++ calPinProgram .sda ++ calRestoreProgram ++ [.commit h l]

/-- CAL_UPTIME (R125). -/
def execCalUptime (s : State) : Host.Outcome State Fault Refusal := invoke .calUptime calUptimeProgram s

/-- CAL_PIN with the already measured `u` (R126). -/
def execCalPin (p : Pin) (u : Tick) (s : State) : Host.Outcome State Fault Refusal :=
  invoke (.calPin p u) (calPinProgram p) { s with loc := { s.loc with u := u } }

/-- CAL_RESTORE (R127). -/
def execCalRestore (s : State) : Host.Outcome State Fault Refusal := invoke .calRestore calRestoreProgram s

/-- CAL_BUDGET: it returns the two budgets and touches nothing (R129). -/
def execCalBudget (h l u cs cd : Tick) (s : State) : Host.Outcome State Fault Refusal :=
  invoke (.calBudget h l u cs cd) [] s

/-- CONFIGURE (R120, R121): refused for a rate of 0; `UnsupportedOperation` for a rate above `F_CLK`, with no event and
no register written; else the calibration and the commit. -/
def execConfigure (rate : Nat) (s : State) : Host.Outcome State Fault Refusal :=
  if !s.isIdle then .refused .commandInProgress
  else if rate = 0 then .refused .clockRateZero
  else if s.fClk < rate then .next { s with reply := some .unsupportedOperation }
  else
    runMicros (.configure rate) (configureProgram (highTicksFor s rate) (lowTicksFor s rate)) { s with reply := none }

end Sys2Proof.Machine
end

