-- ==== Sys2Proof/Machine/Sequencer.lean ====
section
/-!
DEFINITION. The host command TRANSACTION (42_transaction_sequencer.md R180, R181) and the actions of the sequencer's eight states,
class SEQ (R183 to R190). The loop of R180 is the machine's own stepping: Machine/Fetch.lean performs one sequencer step
(R182) at a time until `STATE = done`, and then ST_DONE returns `ERR`.
-/

namespace Sys2Proof.Machine

/-- TRANSACTION: refused while `CONFIGURED = 0` (R181) and while a command runs (R247), and for a
length that is no `LEN_W`-bit natural (R99; log 18); else the entry of R180, which emits no event. The host's WBUF holds the operand's bytes, and nothing has been stored in its RBUF. -/
def execTransaction (addr : Address) (wlen : Nat) (wbuf : List Byte) (rlen : Nat) (s : State) :
    Host.Outcome State Fault Refusal :=
  if !s.isIdle then .refused .commandInProgress
  else if !s.configured then .refused .notConfigured
  else if !(lengthFits s wlen && lengthFits s rlen) then .refused .lengthTooWide
  else
    .next { s with
      addr := addr
      wlen := wlen
      rlen := rlen
      wcur := 0
      rcur := 0
      err := .none
      seqState := .start
      wbuf := Memory.ofBytes wbuf
      rbuf := []
      inTxn := true
      reply := none
      txnEnd := none }

/-- ST_START: SEND_START, then write_address (R183). -/
def execStStart (s : State) : Host.Outcome State Fault Refusal :=
  runMicros .stStart (startProgram ++ [.goto .writeAddress]) s

/-- ST_REPEATED_START: the identical sequence (R184). -/
def execStRepeatedStart (s : State) : Host.Outcome State Fault Refusal :=
  runMicros .stRepeatedStart (startProgram ++ [.goto .writeAddress]) s

/-- ST_WRITE_ADDRESS: the address byte with `RW` by whether WBUF is exhausted (R185, C6). -/
def execStWriteAddress (s : State) : Host.Outcome State Fault Refusal :=
  runMicros .stWriteAddress (writeByteProgram (addressByte s.addr (rwBit s)) ++ [.afterAddress]) s

/-- ST_WRITE: the byte of WBUF at `WCUR`, read before its first cell (R72, R186). -/
def execStWrite (s : State) : Host.Outcome State Fault Refusal :=
  match memReadWbuf s with
  | none => .fault .wbufRange
  | some v => runMicros .stWrite (writeByteProgram v ++ [.afterWrite]) (emit (.readWbuf s.wcur v) s)

/-- ST_READ: one byte into RBUF at `RCUR`, then its acknowledge cell (R187). -/
def execStRead (s : State) : Host.Outcome State Fault Refusal :=
  runMicros .stRead (readByteProgram ++ [.storeRbuf] ++ writeCell .setAck ++ [.afterRead]) s

/-- ST_SEND_STOP: SEND_STOP, then done (R188). -/
def execStSendStop (s : State) : Host.Outcome State Fault Refusal :=
  runMicros .stSendStop (stopProgram ++ [.goto .done]) s

/-- ST_BUS_ERROR: the same action, "it does not change `ERR`" (R189, C4). -/
def execStBusError (s : State) : Host.Outcome State Fault Refusal :=
  runMicros .stBusError (stopProgram ++ [.goto .done]) s

/-- ST_DONE: "it has no action and no successor ...; the loop of rule R180 ends and the command returns `ERR`" (R190). With
no transaction in progress there is nothing to return. -/
def execStDone (s : State) : Host.Outcome State Fault Refusal :=
  .next (if s.inTxn then returnToHost s else s)

end Sys2Proof.Machine
end

