-- ==== Sys2Proof/Machine/Dispatch.lean ====
section
/-!
DEFINITION. One arm per operation (30_encoding.md R98), each one direct call of its meaning.
-/

namespace Sys2Proof.Machine

def exec (i : Instr) (s : State) : Host.Outcome State Fault Refusal :=
  match i with
  | .configure rate => Sys2Proof.Machine.execConfigure rate s
  | .transaction addr wlen wbuf rlen => Sys2Proof.Machine.execTransaction addr wlen wbuf rlen s
  | .stStart => Sys2Proof.Machine.execStStart s
  | .stRepeatedStart => Sys2Proof.Machine.execStRepeatedStart s
  | .stWriteAddress => Sys2Proof.Machine.execStWriteAddress s
  | .stWrite => Sys2Proof.Machine.execStWrite s
  | .stRead => Sys2Proof.Machine.execStRead s
  | .stSendStop => Sys2Proof.Machine.execStSendStop s
  | .stBusError => Sys2Proof.Machine.execStBusError s
  | .stDone => Sys2Proof.Machine.execStDone s
  | .delay n => Sys2Proof.Machine.execDelay n s
  | .sendStart => Sys2Proof.Machine.execSendStart s
  | .sendStop => Sys2Proof.Machine.execSendStop s
  | .writeBit bit => Sys2Proof.Machine.execWriteBit bit s
  | .readBit => Sys2Proof.Machine.execReadBit s
  | .writeByte byte => Sys2Proof.Machine.execWriteByte byte s
  | .readByte => Sys2Proof.Machine.execReadByte s
  | .writeAddress byteWithRwBit => Sys2Proof.Machine.execWriteAddress byteWithRwBit s
  | .write n buf => Sys2Proof.Machine.execWrite n buf s
  | .read n => Sys2Proof.Machine.execRead n s
  | .calUptime => Sys2Proof.Machine.execCalUptime s
  | .calPin pin u => Sys2Proof.Machine.execCalPin pin u s
  | .calRestore => Sys2Proof.Machine.execCalRestore s
  | .calBudget h l u cs cd => Sys2Proof.Machine.execCalBudget h l u cs cd s

end Sys2Proof.Machine
end

