-- ==== Sys2Proof/Machine/Fetch.lean ====
section
/-!
DEFINITION. Which operation runs next: the host's command when the block is idle (R98: "only the HOST class is ever presented to the
block from outside"), the operation `STATE` selects after the per-step poll (42_transaction_sequencer.md R182), or the rest
of an operation that waited for the environment (R27).
-/

namespace Sys2Proof.Machine

/-- What the next step does. -/
inductive Turn where
  /-- the word or command has no meaning -/
  | refuse (r : Refusal)
  /-- no operation is performed; the state is `s` -/
  | rest (s : State)
  /-- go on with operation `i` -/
  | resume (i : Instr) (todo : List Micro) (s : State)
  /-- perform operation `i` -/
  | perform (i : Instr) (s : State)

/-- The host presents word `w`: CONFIGURE and TRANSACTION are commands, every other word is refused (R101, R225). -/
def commandTurn (w : OpWord) (s : State) : Turn :=
  match decode w with
  | .error _ => .refuse .notACommand
  | .ok i =>
    match i.opClass with
    | .host => if i.wellFormed then .perform i s else .refuse .illFormed
    | .seq | .eng | .cal => .refuse .notACommand

/-- The block is idle: the command on the port, else the next command of the host's queue, else it waits (R242). -/
def hostTurn (s : State) : Turn :=
  match s.port with
  | some w => commandTurn w { s with port := none }
  | none =>
    match s.queue with
    | w :: ws => commandTurn w { s with queue := ws }
    | [] => .rest s

/-- A rule invokes the operation in word `w` (log 10). -/
def performTurn (w : OpWord) (s : State) : Turn :=
  match decode w with
  | .error _ => .refuse .notACommand
  | .ok i => if i.wellFormed then .perform i s else .refuse .illFormed

/-- `Step()`: "one poll of the callback followed by the action of the current state"; a failing poll skips the action
except in `send_stop` and `bus_error` (R182). -/
def sequencerTurn (s : State) : Turn :=
  match takePoll s with
  | none => .rest { s with pos := .polling }
  | some (.ok, s1) => .perform s1.seqState.instr { s1 with pos := .idle }
  | some (.fail e, s1) =>
    let s2 := { pollFailed e s1 with pos := .idle }
    if s1.seqState.stops then .perform s1.seqState.instr s2 else .rest s2

/-- What the next step does (R72, R98, R180, R182, R247). -/
def nextTurn (s : State) : Turn :=
  if !s.isIdle && s.port.isSome then .refuse .commandInProgress
  else
    match s.pos with
    | .running i todo => .resume i todo (feedFor todo s)
    | .perform w => performTurn w { s with pos := .idle }
    | .polling => sequencerTurn (feed .poll s)
    | .idle =>
      if s.seqState ≠ .done then sequencerTurn s
      else if s.inTxn then .perform .stDone s
      else hostTurn s

/-- Make the word of a row of the opcode table the one the next step performs (log 10): a HOST word (and a word of no class) on
the command port of an idle block, a SEQ word selected by `STATE` with the step's poll already made, an ENG or CAL word
at the point where a rule invokes it. -/
def placeWord (w : OpWord) (s : State) : State :=
  match w.op.toNat / 16 with
  | 1 => { s with seqState := SeqState.ofCode (w.op.setWidth 3), pos := .perform w, port := none }
  | 2 => { s with pos := .perform w, port := none }
  | 3 => { s with pos := .perform w, port := none }
  | _ => { s with pos := .idle, seqState := .done, inTxn := false, port := some w }

end Sys2Proof.Machine
end

