-- ==== Sys2Proof/Machine/Step.lean ====
section
/-!
DEFINITION. One step of the machine: the next operation, or the rest of one that waited (Machine/Fetch.lean).
-/

namespace Sys2Proof.Machine

/-- One step (R27, R72, R182). -/
def step (s : State) : Host.Outcome State Fault Refusal :=
  match nextTurn s with
  | .refuse r => .refused r
  | .rest s1 => .next s1
  | .resume i todo s1 => runMicros i todo s1
  | .perform i s1 => exec i s1

/-- The state in which the next step performs the opcode table's word `w` (log 10). -/
def State.withFetchWord (s : State) (nbits w : Nat) : State := placeWord (tableWord nbits w) s

end Sys2Proof.Machine
end

