-- ==== Sys2Proof/Safety.lean ====
section
/-!
DEFINITION. The terms in which claims about the block are stated: the event traces of the spec's vectors (30_encoding.md R104,
95_test_vectors.md), the premise that the clock lets a delay end (70_reset_and_hazards.md R249), the wire symbols (R94, R105), and
the invariants of a run (10_state.md R24, R161, R194).
-/

namespace Sys2Proof.Machine

/-! ### Traces -/

/-- An event other than a clock read: "the `U>t` events inside a DELAY are not part of the traces" (R132). -/
def Event.isShown : Event → Bool
  | .uptime _ => false
  | .set _ _ | .get _ _ | .poll _ | .delay _ | .readWbuf _ _ | .wroteRbuf _ _ => true

/-- A trace without its clock reads, as the vectors show it (R132). -/
def shown (es : List Event) : List Event := es.filter Event.isShown

/-- SEND_START: `SDA=1 SCL=1 DH SDA=0 DH SCL=0 DL` (R150). -/
def startEvents (hb lb : Tick) : List Event :=
  [.set .sda true, .set .scl true, .delay hb, .set .sda false, .delay hb, .set .scl false, .delay lb]

/-- SEND_STOP: `SDA=0 SCL=1 DH SDA=1 DH` (R151). -/
def stopEvents (hb : Tick) : List Event :=
  [.set .sda false, .set .scl true, .delay hb, .set .sda true, .delay hb]

/-- `k` passes of the clock-stretch loop whose callback answers `ok`: `SCL?0 T!ok`, `k` times (R152). -/
def stretchEvents (k : Nat) : List Event := (List.replicate k [Event.get .scl false, .poll .ok]).flatten

/-- A cell the controller drives, after `k` stretched polls: `SDA=b SCL=1 … SCL?1 DH SCL=0 DL` (R152). -/
def drivenCell (hb lb : Tick) (b : Bit) (k : Nat) : List Event :=
  [.set .sda b, .set .scl true] ++ stretchEvents k ++ [.get .scl true, .delay hb, .set .scl false, .delay lb]

/-- A cell the controller samples: `SDA=1 SCL=1 DH SDA?b SCL=0 DL` (R153). -/
def sampledCell (hb lb : Tick) (b : Bit) : List Event :=
  [.set .sda true, .set .scl true, .delay hb, .get .sda b, .set .scl false, .delay lb]

/-- The bits of a byte in the order of the wire: bit 7 first (R68). -/
def wireBits (v : Byte) : List Bit :=
  [v.getLsbD 7, v.getLsbD 6, v.getLsbD 5, v.getLsbD 4, v.getLsbD 3, v.getLsbD 2, v.getLsbD 1, v.getLsbD 0]

/-- Driven cells for the bits `bs`, cell by cell after the stretched polls `ks`. -/
def drivenCells (hb lb : Tick) (bs : List Bit) (ks : List Nat) : List Event :=
  (List.zipWith (drivenCell hb lb) bs ks).flatten

/-- A frame the controller sends: eight driven cells and the sampled acknowledge cell (R92, R154). -/
def sentFrame (hb lb : Tick) (v : Byte) (ks : List Nat) (ack : Bit) : List Event :=
  drivenCells hb lb (wireBits v) ks ++ sampledCell hb lb ack

/-- The eight data cells of a frame the controller receives (R92, R155). -/
def receivedCells (hb lb : Tick) (v : Byte) : List Event := (wireBits v).flatMap (sampledCell hb lb)

/-- The answers to `PinGet(SCL)` of cells with stretched polls `ks`: in each cell that many 0s, then 1. -/
def sclAnswers (ks : List Nat) : List Bit := ks.flatMap fun k => List.replicate k false ++ [true]

/-- That many successful answers of the callback. -/
def pollsOk (n : Nat) : List PollAnswer := List.replicate n .ok

/-- THE CLOCK'S ANSWERS LET THESE DELAYS END, one after another: R249's premise that "the clock eventually advances past
any deadline", for the answers at hand. -/
def clockServes : List Tick → List Tick → Tick → Bool
  | [], _, _ => true
  | _ :: _, [], _ => false
  | n :: ns, t :: ts, last =>
    let start := clockAnswer last t
    let r := spin n start ts start
    r.ended && clockServes ns r.rest r.last

/-- The clock's answers let the two delays of a bit cell end, in each of `k` cells (R152, R153). -/
def clockServesCells (k : Nat) (s : State) : Bool :=
  clockServes (List.replicate k [s.highBudget, s.lowBudget]).flatten s.env.up s.env.lastUp

/-! ### Wire symbols -/

/-- A symbol on the wire (R94, R105). -/
inductive Symbol where
  /-- "SDA goes 1 to 0 while SCL is 1" -/
  | start
  /-- "SDA goes 0 to 1 while SCL is 1" -/
  | stop
  /-- a data or acknowledge bit -/
  | bit (b : Bit)
  deriving DecidableEq, Repr

/-- The symbols of a trace of the latches, from latch values (`scl`, `sda`): "a START is `SDA=0` with both latches at 1, a
STOP is `SDA=1` with `SCL_OUT = 1` and `SDA_OUT = 0`, a bit is the `SDA?` answer of a sampled cell or the `SDA=` value of
a driven cell" (95_test_vectors.md Part 3; R94). -/
def symbols : Bit → Bit → List Event → List Symbol
  | _, _, [] => []
  | scl, sda, e :: es =>
    match e with
    | .set .scl b => symbols b sda es
    | .set .sda b =>
      if scl && sda && !b then .start :: symbols scl b es
      else if scl && !sda && b then .stop :: symbols scl b es
      else symbols scl b es
    | .get .sda b => .bit b :: symbols scl sda es
    | .get .scl true => .bit sda :: symbols scl sda es
    | .get .scl false | .uptime _ | .poll _ | .delay _ | .readWbuf _ _ | .wroteRbuf _ _ => symbols scl sda es

/-- The symbols between state `s` and a later state `t`. -/
def symbolsBetween (s t : State) : List Symbol := symbols s.sclOut s.sdaOut (t.trace.drop s.trace.length)

/-- The clock answers a trace shows, in order. -/
def uptimes : List Event → List Tick
  | [] => []
  | .uptime t :: es => t :: uptimes es
  | .set _ _ :: es | .get _ _ :: es | .poll _ :: es | .delay _ :: es | .readWbuf _ _ :: es | .wroteRbuf _ _ :: es =>
    uptimes es

/-! ### Operand lanes -/

/-- The lanes that operation `i` has, hold its operands (R99, R126, R129; log 24). -/
def lanesMatch (i : Instr) (a : OpArgs) : Prop :=
  match i with
  | .configure rate => a.rate = rate
  | .transaction addr wlen buf rlen => a.addr = addr ∧ a.wlen = wlen ∧ a.buf = buf ∧ a.rlen = rlen
  | .delay n => a.ticks = n
  | .writeBit bit => a.bit = bit
  | .writeByte byte => a.byte = byte
  | .writeAddress byte => a.byte = byte
  | .write n buf => a.wlen = n ∧ a.buf = buf
  | .read n => a.rlen = n
  | .calPin pin u => a.pin = pin ∧ a.u = u
  | .calBudget h l u cs cd => a.h = h ∧ a.l = l ∧ a.u = u ∧ a.cs = cs ∧ a.cd = cd
  | .stStart | .stRepeatedStart | .stWriteAddress | .stWrite | .stRead | .stSendStop | .stBusError | .stDone
  | .sendStart | .sendStop | .readBit | .readByte | .calUptime | .calRestore => True

/-! ### Invariants -/

/-- Every buffer space is in its canonical form. -/
def MemoryCanonical (s : State) : Prop := s.wbuf.wf ∧ s.rbuf.wf ∧ s.sink.wf

/-- The cursor invariant "`0 ≤ WCUR ≤ WLEN` and `0 ≤ RCUR ≤ RLEN`" (R24), lengths and so cursors being `LEN_W`-bit naturals
(R22), with what the rest of an operation in progress may still do to `WCUR`. -/
def CursorsInRange (s : State) : Prop :=
  s.wcur ≤ s.wlen ∧ s.rcur ≤ s.rlen ∧ s.wlen < 2 ^ s.lenW ∧ s.rlen < 2 ^ s.lenW ∧
  match s.pos with
  | .running _ todo => todo.count .afterWrite ≤ 1 ∧ (Micro.afterWrite ∈ todo → s.wcur < s.wlen)
  | .idle | .polling | .perform _ => True

/-- `HIGH_BUDGET ≤ HIGH_TICKS` and `LOW_BUDGET ≤ LOW_TICKS` (R31, C6 and C7). -/
def BudgetsWithinTicks (s : State) : Prop := s.highBudget ≤ s.highTicks ∧ s.lowBudget ≤ s.lowTicks

/-- A micro-operation of the wire-level operations: it leaves cursors, buffers, `STATE` and `ERR` alone (except that an
aborted clock-stretch loop ends its operation). -/
def Micro.onWire : Micro → Bool
  | .set _ _ | .setMsb | .setAck | .stretch | .stretchPoll | .delay _ | .delayHigh | .delayLow | .delayStart _
  | .delayLoop _ _ | .sample | .loadByte _ | .shiftOut | .shiftIn | .latchAck => true
  | .failOnNack _ | .storeSink _ | .missingByte | .storeRbuf | .afterAddress | .afterWrite | .afterRead | .goto _
  | .markUptime | .lapUptime | .lapPin _ | .commit _ _ => false

/-- A micro-operation of SEND_STOP: a pin set or a delay. -/
def Micro.ofStop : Micro → Bool
  | .set _ _ | .delay _ | .delayHigh | .delayLow | .delayStart _ | .delayLoop _ _ => true
  | .setMsb | .setAck | .stretch | .stretchPoll | .sample | .loadByte _ | .shiftOut | .shiftIn | .latchAck
  | .failOnNack _ | .storeSink _ | .missingByte | .storeRbuf | .afterAddress | .afterWrite | .afterRead | .goto _
  | .markUptime | .lapUptime | .lapPin _ | .commit _ _ => false

/-- A micro-operation of CONFIGURE: a pin set, a clock read or the commit. -/
def Micro.ofCalibration : Micro → Bool
  | .set _ _ | .markUptime | .lapUptime | .lapPin _ | .commit _ _ => true
  | .delay _ | .delayHigh | .delayLow | .delayStart _ | .delayLoop _ _ | .setMsb | .setAck | .stretch | .stretchPoll
  | .sample | .loadByte _ | .shiftOut | .shiftIn | .latchAck | .failOnNack _ | .storeSink _ | .missingByte | .storeRbuf
  | .afterAddress | .afterWrite | .afterRead | .goto _ => false

/-- The latches (`SCL_OUT`, `SDA_OUT`) after the pin sets of `todo`. -/
def settle : List Micro → Bit × Bit → Bit × Bit
  | [], l => l
  | .set .scl b :: ms, l => settle ms (b, l.2)
  | .set .sda b :: ms, l => settle ms (l.1, b)
  | _ :: ms, l => settle ms l

/-- What holds between operations when `STATE` is as it is: how much of the buffers is consumed (R24, R192), that an error is
latched on the error path (R214), and that the bus is released at `done` (R161). -/
def phaseHolds (s : State) : Prop :=
  match s.seqState with
  | .start | .writeAddress => True
  | .repeatedStart => s.wcur = s.wlen ∧ s.rcur < s.rlen
  | .write => s.wcur < s.wlen
  | .read => s.wcur = s.wlen ∧ s.rcur < s.rlen
  | .sendStop => s.wcur = s.wlen ∧ s.rcur = s.rlen
  | .busError => s.err ≠ .none
  | .done =>
    s.sclOut = true ∧ s.sdaOut = true ∧ (s.inTxn = true → s.err = .none → s.wcur = s.wlen ∧ s.rcur = s.rlen)

/-- What holds inside the action of `STATE` with `todo` still to do (R183 to R189). -/
def actionHolds (s : State) (todo : List Micro) : Prop :=
  match s.seqState with
  | .start | .repeatedStart => ∃ pre, todo = pre ++ [.goto .writeAddress] ∧ pre.all Micro.onWire
  | .writeAddress => ∃ pre, todo = pre ++ [.afterAddress] ∧ pre.all Micro.onWire
  | .write => s.wcur < s.wlen ∧ ∃ pre, todo = pre ++ [.afterWrite] ∧ pre.all Micro.onWire
  | .read =>
    s.wcur = s.wlen ∧
    ((s.rcur < s.rlen ∧ ∃ pre mid, todo = pre ++ [.storeRbuf] ++ mid ++ [.afterRead] ∧ pre.all Micro.onWire ∧
        mid.all Micro.onWire) ∨
      ∃ mid, todo = mid ++ [.afterRead] ∧ mid.all Micro.onWire)
  | .sendStop =>
    (s.wcur = s.wlen ∧ s.rcur = s.rlen) ∧
    ∃ pre, todo = pre ++ [.goto .done] ∧ pre.all Micro.ofStop ∧ settle pre (s.sclOut, s.sdaOut) = (true, true)
  | .busError =>
    s.err ≠ .none ∧
    ∃ pre, todo = pre ++ [.goto .done] ∧ pre.all Micro.ofStop ∧ settle pre (s.sclOut, s.sdaOut) = (true, true)
  | .done => False

/-- THE RUN INVARIANT: cursors in range and consumed as the transition table says, an error latched on the error path, WBUF
holding every byte of a transaction, the bus released between commands (R24, R161, R192, R194). -/
def RunInv (s : State) : Prop :=
  s.wcur ≤ s.wlen ∧ s.rcur ≤ s.rlen ∧
  (s.seqState ≠ .done → s.inTxn = true ∧ ∀ k, k < s.wlen → (Memory.read s.wbuf k).isSome) ∧
  match s.pos with
  | .idle => phaseHolds s
  | .polling => s.seqState ≠ .done ∧ phaseHolds s
  | .perform _ => False
  | .running (.configure _) todo =>
    s.seqState = .done ∧ s.inTxn = false ∧ todo.all Micro.ofCalibration ∧
      settle todo (s.sclOut, s.sdaOut) = (true, true)
  | .running i todo => i = s.seqState.instr ∧ actionHolds s todo

end Sys2Proof.Machine
end

