-- ==== Sys2Proof/Certificates/Slice0/Obligations.lean ====
section
/-!
DEFINITION. The statements for the provers. Each names the rule of spec/ it formalises. A statement about an operation
gives the whole next state: every field it does not name is as before. `up`, `last` and `tr` stand for the clock answers
left, the clock's latest answer, and the trace, whose clock reads inside delays `shown` leaves out (R132).
-/

open Sys2Proof Sys2Proof.Machine

/-! ### Codes and decoding -/

/-- Decoder and encoder agree both ways, with every operand at every value: a word is operation `i` exactly when it carries
`i`'s code and `i`'s operands; so decoding an encoded operation gives it back (R98, R106). -/
def Obligations.DecodeAndEncodeAgree : Prop :=
  (∀ i, decode (encode i) = .ok i) ∧ ∀ w i, decode w = .ok i ↔ (w.op = i.op ∧ lanesMatch i w.args)

/-- R106: "A decoder reads `op[5:4]`: `00` HOST, `01` SEQ, `10` ENG, `11` CAL, then `op[3:0]` against rule R98; anything not in
the table is invalid": the class of a decoded operation is `op[5:4]`, and the words rejected are exactly those whose code
the table of R98 does not have. -/
def Obligations.ClassIsReadFromTheCodeAndTheRestIsInvalid : Prop :=
  (∀ w i, decode w = .ok i → i.opClass.code = BitVec.extractLsb' 4 2 w.op) ∧
  ∀ w, (∃ e, decode w = .error e) ↔
    ((2 ≤ w.op.toNat ∧ w.op.toNat ≤ 15) ∨ (24 ≤ w.op.toNat ∧ w.op.toNat ≤ 31) ∨
      (42 ≤ w.op.toNat ∧ w.op.toNat ≤ 47) ∨ 52 ≤ w.op.toNat)

/-- Words of R98's table, one or more of each class, their codes written out, decode to their operations (R98). The operand
lanes beside the code are the model's form (log 9); `u` of CAL_PIN and the length of READ are operands by R126 and R159,
which R98's operand column does not list (log 24). -/
def Obligations.WordsOfTheTableDecode : Prop :=
  decode { op := 0b00000000, args := { rate := 100000 } } = .ok (.configure 100000) ∧
  decode { op := 0b00000001, args := { addr := 0x3C, wlen := 1, buf := [0xAB], rlen := 2 } } =
    .ok (.transaction 0x3C 1 [0xAB] 2) ∧
  decode { op := 0b00010010 } = .ok .stWriteAddress ∧
  decode { op := 0b00010111 } = .ok .stDone ∧
  decode { op := 0b00100011, args := { bit := true } } = .ok (.writeBit true) ∧
  decode { op := 0b00101001, args := { rlen := 3 } } = .ok (.read 3) ∧
  decode { op := 0b00110001, args := { pin := .sda, u := 3 } } = .ok (.calPin .sda 3)

/-- R96: the eight states "take the codes 0 to 7" in the listed order; and for the SEQ class `index[2:0]` is that code: the word
`01_0` followed by the code of `STATE` is the operation the sequencer performs in it (R98). -/
def Obligations.StateCodesSelectTheStateOperations : Prop :=
  [SeqState.start, .repeatedStart, .writeAddress, .write, .read, .sendStop, .busError, .done].map
      (fun st => (SeqState.code st).toNat) = [0, 1, 2, 3, 4, 5, 6, 7] ∧
  ∀ st, SeqState.ofCode st.code = st ∧ decode { op := 0b00010000 + st.code.setWidth 8 } = .ok st.instr

/-! ### Reset and construction -/

/-- After reset: the values the spec gives (10_state.md section 10, R44), and the model's clock (log 2); the block is idle,
and reset emits no event (70_reset_and_hazards.md section 1). The values of the unspecified registers are the model's
choice (log 3) and are not stated. -/
def Obligations.ResetLeavesTheValuesTheSpecGives : Prop :=
  State.reset.seqState = .done ∧ State.reset.err = .none ∧ State.reset.configured = false ∧
  State.reset.sclOut = true ∧ State.reset.sdaOut = true ∧ State.reset.dutyNum = 1 ∧ State.reset.dutyDen = 2 ∧
  State.reset.trace = [] ∧ State.reset.isIdle = true

/-- Construction takes every legal duty cycle, both ends included, every clock frequency above 0 and every width of a length,
and refuses the others (00_scope.md R7; 10_state.md section 5, R32; R240, R241). -/
def Obligations.ConstructionTakesExactlyTheLegalParameters : Prop :=
  ∀ fClk num den lenW,
    ((0 < den ∧ num ≤ den) → 0 < fClk → ∃ s, State.construct fClk num den lenW = .next s ∧
      s.dutyNum = num ∧ s.dutyDen = den ∧ s.fClk = fClk ∧ s.lenW = lenW ∧ s.seqState = .done ∧ s.err = .none ∧
      s.configured = false ∧ s.sclOut = true ∧ s.sdaOut = true ∧ s.trace = []) ∧
    ((0 < den ∧ num ≤ den) → fClk = 0 → State.construct fClk num den lenW = .refused .illegalClock) ∧
    (¬(0 < den ∧ num ≤ den) → State.construct fClk num den lenW = .refused .illegalDuty)

/-! ### The host's commands -/

/-- R121: "The test is the first thing CONFIGURE does": a rate above `F_CLK` fails with `UnsupportedOperation`, with no event and
no register written; a rate of `F_CLK` is accepted; a rate of 0 is refused. (The first and the last cannot meet: no rate
above `F_CLK` is 0.) -/
def Obligations.ConfigureTestsTheRateFirst : Prop :=
  ∀ s : State, s.isIdle = true →
    (∀ rate, s.fClk < rate → exec (.configure rate) s = .next { s with reply := some .unsupportedOperation }) ∧
    exec (.configure 0) s = .refused .clockRateZero ∧
    (0 < s.fClk → ∃ t, exec (.configure s.fClk) s = .next t ∧ t.reply ≠ some .unsupportedOperation)

/-- R120 (with R123, R130): a successful CONFIGURE. From the six clock answers `t0 ≤ … ≤ t5` it emits `U>t0 U>t1 U>t2 SCL=0 U>t3
U>t4 SDA=0 U>t5 SCL=1 SDA=1`, commits the seven timing registers and `CONFIGURED` and returns `NONE`; no other register
changes. -/
def Obligations.ConfigureMeasuresAndCommits : Prop :=
  ∀ (s : State) (rate : Nat) (t0 t1 t2 t3 t4 t5 : Tick) (rest : List Tick),
    s.isIdle = true → 0 < rate → rate ≤ s.fClk → s.fClk < 2 ^ 64 → 0 < s.dutyDen → s.dutyNum ≤ s.dutyDen →
    s.env.up = t0 :: t1 :: t2 :: t3 :: t4 :: t5 :: rest →
    s.env.lastUp ≤ t0 → t0 ≤ t1 → t1 ≤ t2 → t2 ≤ t3 → t3 ≤ t4 → t4 ≤ t5 →
    ∃ h l u cs cd hb lb : Tick,
      h.toNat = s.fClk * s.dutyNum / (s.dutyDen * rate) ∧
      l.toNat = s.fClk * (s.dutyDen - s.dutyNum) / (s.dutyDen * rate) ∧
      u = t1 - t0 ∧ cs.toNat = (t3 - t2).toNat - u.toNat ∧ cd.toNat = (t5 - t4).toNat - u.toNat ∧
      hb.toNat = h.toNat - (u.toNat + cs.toNat + cd.toNat) ∧ lb.toNat = l.toNat - (u.toNat + cs.toNat + cd.toNat) ∧
      exec (.configure rate) s = .next { s with
        highTicks := h, lowTicks := l, uptimeOvh := u, sclOvh := cs, sdaOvh := cd, highBudget := hb, lowBudget := lb
        configured := true, sclOut := true, sdaOut := true, reply := some .none
        loc := { s.loc with mark := t4, u := u, cs := cs, cd := cd }
        env := { s.env with up := rest, lastUp := t5 }
        trace := s.trace ++ [.uptime t0, .uptime t1, .uptime t2, .set .scl false, .uptime t3, .uptime t4,
          .set .sda false, .uptime t5, .set .scl true, .set .sda true] }

/-- R130: the seven timing registers and `CONFIGURED` are written "all together, as the last act of a successful CONFIGURE": when
CONFIGURE has answered, either all eight are as before, because it was turned away or waits for the clock, or all eight
are those of the new calibration and it has returned `NONE`. The overheads are the differences of the six clock reads that
this command added to the trace, so nothing of the previous calibration is used. -/
def Obligations.ConfigureCommitsAllOrNothing : Prop :=
  ∀ (s t : State) (rate : Nat), exec (.configure rate) s = .next t →
    (t.highTicks = s.highTicks ∧ t.lowTicks = s.lowTicks ∧ t.uptimeOvh = s.uptimeOvh ∧ t.sclOvh = s.sclOvh ∧
      t.sdaOvh = s.sdaOvh ∧ t.highBudget = s.highBudget ∧ t.lowBudget = s.lowBudget ∧ t.configured = s.configured ∧
      t.reply ≠ some .none) ∨
    ∃ (es : List Event) (t0 t1 t2 t3 t4 t5 : Tick),
      t.trace = s.trace ++ es ∧ uptimes es = [t0, t1, t2, t3, t4, t5] ∧
      t.highTicks = highTicksFor s rate ∧ t.lowTicks = lowTicksFor s rate ∧ t.uptimeOvh = t1 - t0 ∧
      t.sclOvh = satSub (t3 - t2) t.uptimeOvh.toNat ∧ t.sdaOvh = satSub (t5 - t4) t.uptimeOvh.toNat ∧
      t.highBudget = budget t.highTicks t.uptimeOvh t.sclOvh t.sdaOvh ∧
      t.lowBudget = budget t.lowTicks t.uptimeOvh t.sclOvh t.sdaOvh ∧ t.configured = true ∧
      t.reply = some .none ∧ t.pos = .idle

/-- R124: with `P = F_CLK / clock_rate`, each tick count is within one below its exact value, and their sum is `floor(P)` or
`floor(P) − 1`. -/
def Obligations.TickCountsAreWithinOneOfTheirExactValues : Prop :=
  ∀ (s : State) (rate : Nat), 0 < rate → rate ≤ s.fClk → s.fClk < 2 ^ 64 → 0 < s.dutyDen → s.dutyNum ≤ s.dutyDen →
    let h := (highTicksFor s rate).toNat
    let l := (lowTicksFor s rate).toNat
    h * (s.dutyDen * rate) ≤ s.fClk * s.dutyNum ∧ s.fClk * s.dutyNum < (h + 1) * (s.dutyDen * rate) ∧
    l * (s.dutyDen * rate) ≤ s.fClk * (s.dutyDen - s.dutyNum) ∧
    s.fClk * (s.dutyDen - s.dutyNum) < (l + 1) * (s.dutyDen * rate) ∧
    (h + l = s.fClk / rate ∨ h + l + 1 = s.fClk / rate)

/-- R181: TRANSACTION's entry: the argument registers loaded, cursors 0, `ERR = NONE`, `STATE = start`, no event; refused while
`CONFIGURED = 0`; any address and any lengths of `LEN_W` bits are accepted. -/
def Obligations.TransactionEntry : Prop :=
  ∀ (s : State) (addr : Address) (wlen : Nat) (wbuf : List Byte) (rlen : Nat), s.isIdle = true →
    (s.configured = true → wlen < 2 ^ s.lenW → rlen < 2 ^ s.lenW → ∃ wb, (∀ k, Memory.read wb k = wbuf[k]?) ∧
      exec (.transaction addr wlen wbuf rlen) s = .next { s with
        addr := addr, wlen := wlen, rlen := rlen, wcur := 0, rcur := 0, err := .none, seqState := .start
        wbuf := wb, rbuf := [], inTxn := true, reply := none, txnEnd := none }) ∧
    (s.configured = false → exec (.transaction addr wlen wbuf rlen) s = .refused .notConfigured)

/-- A length that is no `LEN_W`-bit natural is no operand of TRANSACTION (30_encoding.md section 6, R99; log 18): an idle,
configured block refuses it. -/
def Obligations.LengthsOfMoreThanLenWBitsAreRefused : Prop :=
  ∀ (s : State) (addr : Address) (wlen : Nat) (wbuf : List Byte) (rlen : Nat), s.isIdle = true → s.configured = true →
    (2 ^ s.lenW ≤ wlen ∨ 2 ^ s.lenW ≤ rlen) → exec (.transaction addr wlen wbuf rlen) s = .refused .lengthTooWide

/-- A command while another is in progress is refused, at the port and at the operation; the block is left as it is
(70_reset_and_hazards.md section 3, R247; R225). -/
def Obligations.CommandDuringACommandIsRefused : Prop :=
  ∀ s : State, s.isIdle = false →
    (∀ w, s.port = some w → step s = .refused .commandInProgress) ∧
    (∀ rate, exec (.configure rate) s = .refused .commandInProgress) ∧
    ∀ addr wlen wbuf rlen, exec (.transaction addr wlen wbuf rlen) s = .refused .commandInProgress

/-- Only the codes of CONFIGURE and TRANSACTION are commands: an idle block refuses every other word on its port
(30_encoding.md section 8, R101; R225). -/
def Obligations.OtherCodesAreNotCommands : Prop :=
  ∀ (s : State) (w : OpWord), s.isIdle = true → s.port = some w → w.op ≠ 0b000000 → w.op ≠ 0b000001 →
    step s = .refused .notACommand

/-! ### The step -/

/-- A step runs the decoded operation: the command on an idle block's port, the next command of the host's queue, or the
operation a rule is about to perform; and it goes on with an operation that waited (R72, R98; log 10). -/
def Obligations.StepRunsTheDecodedInstruction : Prop :=
  (∀ (s : State) (w : OpWord) (i : Instr), decode w = .ok i → i.wellFormed = true →
    (s.isIdle = true → s.port = some w → i.opClass = .host → step s = exec i { s with port := none }) ∧
    (∀ ws, s.isIdle = true → s.port = none → s.queue = w :: ws → i.opClass = .host →
      step s = exec i { s with queue := ws }) ∧
    (s.pos = .perform w → s.port = none → step s = exec i { s with pos := .idle })) ∧
  ∀ (s : State) (i : Instr) (todo : List Micro), s.pos = .running i todo → s.port = none →
    step s = runMicros i todo (feedFor todo s)

/-- R182: one sequencer step is one poll and the action of the current state. After `ok` the action of `STATE` is performed. After
`fail(e)` `ERR` takes `Timeout(e)` if it is `NONE`; in `send_stop` and `bus_error` the action is still performed, in every
other state it is skipped and `STATE` is `bus_error`. -/
def Obligations.SequencerStepPollsThenActs : Prop :=
  ∀ (s : State) (r : PollAnswer) (rs : List PollAnswer),
    s.seqState ≠ .done → s.port = none → (s.pos = .idle ∨ s.pos = .polling) → s.env.poll = r :: rs →
    let s1 : State := { s with pos := .idle, env := { s.env with poll := rs }, trace := s.trace ++ [.poll r] }
    (r = .ok → step s = exec s.seqState.instr s1) ∧
    ∀ e, r = .fail e →
      let latched := if s.err = .none then Result.timeout e else s.err
      ((s.seqState = .sendStop ∨ s.seqState = .busError) →
        step s = exec s.seqState.instr { s1 with err := latched }) ∧
      (¬(s.seqState = .sendStop ∨ s.seqState = .busError) →
        step s = .next { s1 with err := latched, seqState := .busError })

/-- R156: an abort. Whatever micro-operations `ms` are left, a callback that fails with `e` in the clock-stretch loop ends the
operation: "the enclosing operation stops at once, performs nothing further of its own". An engine operation returns
`abort(e)`, a sequencer state is `raise Timeout(e)` (`ERR` takes it if it is `NONE`, `STATE` is `bus_error`); `e` is as the
callback gave it. So from the loop's head, after `k` stretched polls that succeed and one more SCL read of 0, and so where
the block has waited for the answer of a poll (log 7), after `k` successful answers each followed by an SCL read of 0. -/
def Obligations.AbortEndsTheOperation : Prop :=
  ∀ (s : State) (i : Instr) (ms : List Micro) (k : Nat) (e : TimeoutErr) (vs : List Bit) (rs : List PollAnswer),
    s.env.poll = pollsOk k ++ .fail e :: rs →
    let ends (m0 : Micro) (es : List Event) : Prop :=
      let s1 : State := { s with pos := .idle, env := { s.env with scl := vs, poll := rs }, trace := s.trace ++ es }
      (i.opClass = .seq → runMicros i (m0 :: ms) s = .next { s1 with
        err := if s.err = .none then .timeout e else s.err, seqState := .busError }) ∧
      (i.opClass = .eng → runMicros i (m0 :: ms) s = .next { s1 with ret := some (.abort e) }) ∧
      (s.port = none → s.pos = .running i (m0 :: ms) → step s = runMicros i (m0 :: ms) s)
    (s.env.scl = List.replicate k false ++ false :: vs →
      ends .stretch (stretchEvents k ++ [.get .scl false, .poll (.fail e)])) ∧
    (s.env.scl = List.replicate k false ++ vs →
      ends .stretchPoll ((List.replicate k [.poll .ok, .get .scl false]).flatten ++ [.poll (.fail e)]))

/-- The clock-stretch loop, answer by answer, in any operation (41_wire_primitives.md R152; 70_reset_and_hazards.md R249). It never
ends by itself: SCL read 0 and the callback answering `ok`, the block is in the loop as before. SCL read 0 and no answer of
the callback yet, it waits for that answer; `ok` there leads back to `PinGet(SCL)`, not out of the loop; SCL read 1 ends the
loop, with no poll. (A failing answer, at either place: `AbortEndsTheOperation`.) -/
def Obligations.ClockStretchLoopGoesOn : Prop :=
  ∀ (s : State) (i : Instr) (ms : List Micro) (vs : List Bit) (rs : List PollAnswer), s.port = none →
    (s.pos = .running i (.stretch :: ms) →
      (s.env.scl = [false] → s.env.poll = .ok :: rs → step s = .next { s with
        env := { s.env with scl := [], poll := rs }, trace := s.trace ++ [.get .scl false, .poll .ok] }) ∧
      (s.env.scl = false :: vs → s.env.poll = [] → step s = .next { s with
        pos := .running i (.stretchPoll :: ms), env := { s.env with scl := vs }
        trace := s.trace ++ [.get .scl false] }) ∧
      (s.env.scl = true :: vs → step s = runMicros i ms { s with
        env := { s.env with scl := vs }, trace := s.trace ++ [.get .scl true] })) ∧
    (s.pos = .running i (.stretchPoll :: ms) → s.env.poll = .ok :: rs →
      let s1 : State := { s with env := { s.env with poll := rs }, trace := s.trace ++ [.poll .ok] }
      step s = runMicros i (.stretch :: ms) s1 ∧
      (s.env.scl = [] → step s = .next { s1 with pos := .running i (.stretch :: ms) }))

/-- The delay loop, answer by answer, in any operation (40_configure_and_calibrator.md R131; 70_reset_and_hazards.md R249). Its
start reading leads into the loop, which never ends by itself: a clock answer short of the deadline leaves the block in the
loop, and the first at or past it ends the delay. -/
def Obligations.DelayLoopGoesOn : Prop :=
  ∀ (s : State) (i : Instr) (ms : List Micro) (n start c : Tick) (cs : List Tick),
    s.port = none → s.env.up = c :: cs → s.env.lastUp ≤ c →
    let s1 : State := { s with env := { s.env with up := cs, lastUp := c }, trace := s.trace ++ [.uptime c] }
    (s.pos = .running i (.delayStart n :: ms) → cs = [] →
      step s = .next { s1 with pos := .running i (.delayLoop n c :: ms) }) ∧
    (s.pos = .running i (.delayLoop n start :: ms) →
      (c - start < n → cs = [] → step s = .next s1) ∧ (n ≤ c - start → step s = runMicros i ms s1))

/-! ### The engine -/

/-- R131: DELAY emits `D(n)`, reads the start `s0`, and reads again until `n` ticks have elapsed; it touches nothing else. -/
def Obligations.DelayReadsUntilTheDeadline : Prop :=
  ∀ (s : State) (n s0 c : Tick) (cs rest : List Tick),
    s.env.up = s0 :: (cs ++ c :: rest) → (s.env.lastUp :: s0 :: cs ++ [c]).Pairwise (· ≤ ·) →
    (∀ x ∈ cs, x - s0 < n) → n ≤ c - s0 →
    exec (.delay n) s = .next { s with
      ret := some .ok, pos := .idle, env := { s.env with up := rest, lastUp := c }
      trace := s.trace ++ [.delay n, .uptime s0] ++ cs.map .uptime ++ [.uptime c] }

/-- R150: SEND_START. -/
def Obligations.SendStartDrivesTheStartSequence : Prop :=
  ∀ s : State, clockServes [s.highBudget, s.highBudget, s.lowBudget] s.env.up s.env.lastUp = true →
    ∃ up last tr, shown tr = shown s.trace ++ startEvents s.highBudget s.lowBudget ∧
      exec .sendStart s = .next { s with
        sclOut := false, sdaOut := false, ret := some .ok, pos := .idle, trace := tr
        env := { s.env with up := up, lastUp := last } }

/-- R151: SEND_STOP. -/
def Obligations.SendStopDrivesTheStopSequence : Prop :=
  ∀ s : State, clockServes [s.highBudget, s.highBudget] s.env.up s.env.lastUp = true →
    ∃ up last tr, shown tr = shown s.trace ++ stopEvents s.highBudget ∧
      exec .sendStop s = .next { s with
        sclOut := true, sdaOut := true, ret := some .ok, pos := .idle, trace := tr
        env := { s.env with up := up, lastUp := last } }

/-- R152: WRITE_BIT. After `k` stretched polls SCL reads 1: the cell is completed. When the callback fails at a stretched poll,
`abort(e)`, nothing after the failing poll, SCL's latch still 1. -/
def Obligations.WriteBitWaitsForSclThenHolds : Prop :=
  ∀ (s : State) (b : Bit) (k : Nat) (vs : List Bit) (rs : List PollAnswer),
    (s.env.scl = List.replicate k false ++ true :: vs → s.env.poll = pollsOk k ++ rs → clockServesCells 1 s = true →
      ∃ up last tr, shown tr = shown s.trace ++ drivenCell s.highBudget s.lowBudget b k ∧
        exec (.writeBit b) s = .next { s with
          sclOut := false, sdaOut := b, ret := some .ok, pos := .idle, trace := tr
          env := { s.env with scl := vs, poll := rs, up := up, lastUp := last } }) ∧
    ∀ e, s.env.scl = List.replicate k false ++ false :: vs → s.env.poll = pollsOk k ++ .fail e :: rs →
      exec (.writeBit b) s = .next { s with
        sclOut := true, sdaOut := b, ret := some (.abort e), pos := .idle
        env := { s.env with scl := vs, poll := rs }
        trace := s.trace ++ [.set .sda b, .set .scl true] ++ stretchEvents k ++ [.get .scl false, .poll (.fail e)] }

/-- R153: READ_BIT. -/
def Obligations.ReadBitSamplesAfterTheHighHold : Prop :=
  ∀ (s : State) (b : Bit) (bs : List Bit), s.env.sda = b :: bs → clockServesCells 1 s = true →
    ∃ up last tr, shown tr = shown s.trace ++ sampledCell s.highBudget s.lowBudget b ∧
      exec .readBit s = .next { s with
        sclOut := false, sdaOut := true, ret := some (.bit b), pos := .idle, trace := tr
        loc := { s.loc with bit := b }, env := { s.env with sda := bs, up := up, lastUp := last } }

/-- R154: WRITE_BYTE. Eight driven cells from bit 7 down, then the sampled acknowledge cell, whose bit is `ACKBIT`; it returns
`ok(ACKBIT = 0)`. An abort in the cell after `j` completed ones leaves `BITCNT = j`, sends no further cell and does not
write `ACKBIT`. -/
def Obligations.WriteByteSendsMsbFirstAndSamplesTheAck : Prop :=
  ∀ (s : State) (v : Byte) (ks : List Nat) (vs bs : List Bit) (rs : List PollAnswer),
    (∀ ack, ks.length = 8 → s.env.scl = sclAnswers ks ++ vs → s.env.poll = pollsOk ks.sum ++ rs →
      s.env.sda = ack :: bs → clockServesCells 9 s = true →
      ∃ up last tr, shown tr = shown s.trace ++ sentFrame s.highBudget s.lowBudget v ks ack ∧
        exec (.writeByte v) s = .next { s with
          shreg := 0, bitcnt := 8, ackbit := ack, sclOut := false, sdaOut := true
          ret := some (.acknowledged (!ack)), pos := .idle, trace := tr, loc := { s.loc with bit := ack }
          env := { s.env with scl := vs, poll := rs, sda := bs, up := up, lastUp := last } }) ∧
    ∀ (e : TimeoutErr) (k : Nat), ks.length < 8 → s.env.scl = sclAnswers ks ++ (List.replicate k false ++ false :: vs) →
      s.env.poll = pollsOk ks.sum ++ (pollsOk k ++ .fail e :: rs) → clockServesCells ks.length s = true →
      ∃ up last tr, shown tr = shown s.trace ++ drivenCells s.highBudget s.lowBudget (wireBits v) ks ++
          [.set .sda ((v <<< ks.length).getLsbD 7), .set .scl true] ++ stretchEvents k ++
          [.get .scl false, .poll (.fail e)] ∧
        exec (.writeByte v) s = .next { s with
          shreg := v <<< ks.length, bitcnt := BitVec.ofNat 4 ks.length, sclOut := true
          sdaOut := (v <<< ks.length).getLsbD 7, ret := some (.abort e), pos := .idle, trace := tr
          env := { s.env with scl := vs, poll := rs, up := up, lastUp := last } }

/-- R155: READ_BYTE. The eight sampled bits, first to last, are the byte from bit 7 down. -/
def Obligations.ReadByteAssemblesMsbFirst : Prop :=
  ∀ (s : State) (v : Byte) (bs : List Bit), s.env.sda = wireBits v ++ bs → clockServesCells 8 s = true →
    ∃ up last tr, shown tr = shown s.trace ++ receivedCells s.highBudget s.lowBudget v ∧
      exec .readByte s = .next { s with
        shreg := v, bitcnt := 8, sclOut := false, sdaOut := true, ret := some (.byte v), pos := .idle, trace := tr
        loc := { s.loc with bit := v.getLsbD 0 }, env := { s.env with sda := bs, up := up, lastUp := last } }

/-- R157: WRITE_ADDRESS is WRITE_BYTE, its `abort(e)` passed up, `ok(false)` turned into `fail(NoSuchDevice)` and `ok(true)` into
`ok`; written out for both levels of the ninth cell. -/
def Obligations.WriteAddressFailsOnNack : Prop :=
  (∀ (s t : State) (v : Byte), exec (.writeByte v) s = .next t → t.pos = .idle →
    (∀ e, t.ret = some (.abort e) → exec (.writeAddress v) s = .next t) ∧
    (t.ret = some (.acknowledged false) → exec (.writeAddress v) s = .next { t with ret := some (.fail .noSuchDevice) }) ∧
    (t.ret = some (.acknowledged true) → exec (.writeAddress v) s = .next { t with ret := some .ok })) ∧
  ∀ (s : State) (v : Byte) (ks : List Nat) (ack : Bit) (vs bs : List Bit) (rs : List PollAnswer),
    ks.length = 8 → s.env.scl = sclAnswers ks ++ vs → s.env.poll = pollsOk ks.sum ++ rs → s.env.sda = ack :: bs →
    clockServesCells 9 s = true →
    ∃ up last tr, shown tr = shown s.trace ++ sentFrame s.highBudget s.lowBudget v ks ack ∧
      exec (.writeAddress v) s = .next { s with
        shreg := 0, bitcnt := 8, ackbit := ack, sclOut := false, sdaOut := true
        ret := some (if ack then .fail .noSuchDevice else .ok), pos := .idle, trace := tr
        loc := { s.loc with bit := ack }
        env := { s.env with scl := vs, poll := rs, sda := bs, up := up, lastUp := last } }

/-- R158, as the loop it is: WRITE of no byte does nothing; WRITE of one byte more is the WRITE of the bytes before it and then
WRITE_BYTE of that byte, whose `abort(e)` is passed up and whose `ok(false)` is `fail(IoError)`, whatever bytes `post` come
after it. -/
def Obligations.WriteIsALoopOfWriteByte : Prop :=
  (∀ s : State, exec (.write 0 []) s = .next { s with ret := some .ok, pos := .idle }) ∧
  ∀ (s t u : State) (n m : Nat) (acked post : List Byte) (v : Byte),
    n = acked.length → m = acked.length + 1 + post.length →
    exec (.write n acked) s = .next t → t.pos = .idle → t.ret = some .ok →
    exec (.writeByte v) t = .next u → u.pos = .idle →
    (∀ e, u.ret = some (.abort e) → exec (.write m (acked ++ v :: post)) s = .next u) ∧
    (u.ret = some (.acknowledged false) →
      exec (.write m (acked ++ v :: post)) s = .next { u with ret := some (.fail .ioError) }) ∧
    (u.ret = some (.acknowledged true) → post = [] →
      exec (.write m (acked ++ v :: post)) s = .next { u with ret := some .ok })

/-- R158: WRITE sends the bytes of its buffer in order while they are acknowledged. All acknowledged: `ok`; the byte after `acked`
not acknowledged: `fail(IoError)`, and no later byte is sent. An empty buffer sends nothing. -/
def Obligations.WriteStopsAtTheFirstNack : Prop :=
  ∀ (s : State) (n : Nat) (acked : List Byte) (kss : List (List Nat)) (vs bs : List Bit) (rs : List PollAnswer),
    kss.length = acked.length → (∀ ks ∈ kss, ks.length = 8) →
    let frames := (List.zipWith (fun v ks => sentFrame s.highBudget s.lowBudget v ks false) acked kss).flatten
    (n = acked.length → s.env.scl = sclAnswers kss.flatten ++ vs → s.env.poll = pollsOk kss.flatten.sum ++ rs →
      s.env.sda = List.replicate acked.length false ++ bs → clockServesCells (9 * acked.length) s = true →
      ∃ t, exec (.write n acked) s = .next t ∧ shown t.trace = shown s.trace ++ frames ∧
        t = { s with
          shreg := t.shreg, bitcnt := t.bitcnt, ackbit := t.ackbit, sclOut := t.sclOut, sdaOut := t.sdaOut
          loc := { s.loc with bit := t.loc.bit }, trace := t.trace, ret := some .ok, pos := .idle
          env := { s.env with scl := vs, poll := rs, sda := bs, up := t.env.up, lastUp := t.env.lastUp } } ∧
        (acked = [] → t = { s with ret := some .ok, pos := .idle }) ∧
        (acked ≠ [] → t.ackbit = false ∧ t.shreg = 0 ∧ t.bitcnt = 8 ∧ t.sclOut = false ∧ t.sdaOut = true)) ∧
    ∀ (v : Byte) (post : List Byte) (ks : List Nat), n = (acked ++ v :: post).length → ks.length = 8 →
      s.env.scl = sclAnswers (kss.flatten ++ ks) ++ vs → s.env.poll = pollsOk (kss.flatten ++ ks).sum ++ rs →
      s.env.sda = List.replicate acked.length false ++ true :: bs →
      clockServesCells (9 * (acked.length + 1)) s = true →
      ∃ up last tr, shown tr = shown s.trace ++ frames ++ sentFrame s.highBudget s.lowBudget v ks true ∧
        exec (.write n (acked ++ v :: post)) s = .next { s with
          shreg := 0, bitcnt := 8, ackbit := true, sclOut := false, sdaOut := true
          ret := some (.fail .ioError), pos := .idle, trace := tr, loc := { s.loc with bit := true }
          env := { s.env with scl := vs, poll := rs, sda := bs, up := up, lastUp := last } }

/-- R159: READ receives and stores `n` bytes; after every byte but the last it writes 0 (ACK), after the last 1 (NACK). An abort in
an acknowledge cell ends it with `abort(e)`, the byte already stored. -/
def Obligations.ReadAcksAllButTheLast : Prop :=
  ∀ (s : State) (n : Nat) (data : List Byte) (ks : List Nat) (vs bs : List Bit) (rs : List PollAnswer),
    ks.length = data.length →
    let frames := (List.zipWith (fun (c : Byte × Nat) k =>
      receivedCells s.highBudget s.lowBudget c.1 ++
        drivenCell s.highBudget s.lowBudget (decide (c.2 + 1 = n)) k) data.zipIdx ks).flatten
    (n = data.length → s.env.scl = sclAnswers ks ++ vs → s.env.poll = pollsOk ks.sum ++ rs →
      s.env.sda = data.flatMap wireBits ++ bs → clockServesCells (9 * data.length) s = true →
      ∃ t, exec (.read n) s = .next t ∧ shown t.trace = shown s.trace ++ frames ∧
        (∀ k, Memory.read t.sink k = data[k]?) ∧
        t = { s with
          shreg := t.shreg, bitcnt := t.bitcnt, sclOut := t.sclOut, sdaOut := t.sdaOut
          loc := { s.loc with bit := t.loc.bit }, sink := t.sink, trace := t.trace, ret := some .ok, pos := .idle
          env := { s.env with scl := vs, poll := rs, sda := bs, up := t.env.up, lastUp := t.env.lastUp } } ∧
        (data = [] → t = { s with sink := [], ret := some .ok, pos := .idle }) ∧
        (data ≠ [] → t.sclOut = false ∧ t.sdaOut = true ∧ t.bitcnt = 8 ∧ some t.shreg = data.getLast?)) ∧
    ∀ (v : Byte) (k : Nat) (e : TimeoutErr), data.length < n →
      s.env.scl = sclAnswers ks ++ (List.replicate k false ++ false :: vs) →
      s.env.poll = pollsOk ks.sum ++ (pollsOk k ++ .fail e :: rs) → s.env.sda = (data ++ [v]).flatMap wireBits ++ bs →
      clockServesCells (9 * data.length + 8) s = true →
      let last : Bool := decide (data.length + 1 = n)
      ∃ up lst tr snk,
        shown tr = shown s.trace ++ frames ++ receivedCells s.highBudget s.lowBudget v ++
          [.set .sda last, .set .scl true] ++ stretchEvents k ++ [.get .scl false, .poll (.fail e)] ∧
        (∀ j, Memory.read snk j = (data ++ [v])[j]?) ∧
        exec (.read n) s = .next { s with
          shreg := v, bitcnt := 8, sclOut := true, sdaOut := last, sink := snk, loc := { s.loc with bit := v.getLsbD 0 }
          ret := some (.abort e), pos := .idle, trace := tr
          env := { s.env with scl := vs, poll := rs, sda := bs, up := up, lastUp := lst } }

/-- The engine and the calibrator never stop: in every state, whatever the environment has answered, an operation of these
classes with operands in their domain answers a next state, complete or waiting (10_state.md R27; 70 R249). -/
def Obligations.EngineOperationsAlwaysAnswer : Prop :=
  ∀ (i : Instr) (s : State), (i.opClass = .eng ∨ i.opClass = .cal) → i.wellFormed = true →
    ∃ t, exec i s = .next t ∧ (t.pos = .idle ∨ ∃ m ms src, t.pos = .running i (m :: ms) ∧ m.needs = some src)

/-! ### The calibrator -/

/-- R125: CAL_UPTIME returns the difference of two consecutive clock reads. -/
def Obligations.CalUptimeReturnsTheDifference : Prop :=
  ∀ (s : State) (t0 t1 : Tick) (rest : List Tick), s.env.up = t0 :: t1 :: rest → s.env.lastUp ≤ t0 → t0 ≤ t1 →
    exec .calUptime s = .next { s with
      ret := some (.ticks (t1 - t0)), pos := .idle, loc := { s.loc with mark := t0, u := t1 - t0 }
      env := { s.env with up := rest, lastUp := t1 }, trace := s.trace ++ [.uptime t0, .uptime t1] }

/-- R126: CAL_PIN writes 0 to the pin between two clock reads and returns their difference less `u`, saturating at 0. -/
def Obligations.CalPinBracketsOnePinSet : Prop :=
  ∀ (s : State) (u ta tb : Tick) (rest : List Tick), s.env.up = ta :: tb :: rest → s.env.lastUp ≤ ta → ta ≤ tb →
    ∃ ovh : Tick, ovh.toNat = (tb - ta).toNat - u.toNat ∧
      exec (.calPin .scl u) s = .next { s with
        sclOut := false, ret := some (.ticks ovh), pos := .idle, loc := { s.loc with mark := ta, u := u, cs := ovh }
        env := { s.env with up := rest, lastUp := tb }
        trace := s.trace ++ [.uptime ta, .set .scl false, .uptime tb] } ∧
      exec (.calPin .sda u) s = .next { s with
        sdaOut := false, ret := some (.ticks ovh), pos := .idle, loc := { s.loc with mark := ta, u := u, cd := ovh }
        env := { s.env with up := rest, lastUp := tb }
        trace := s.trace ++ [.uptime ta, .set .sda false, .uptime tb] }

/-- R127: CAL_RESTORE releases SCL, then SDA. -/
def Obligations.CalRestoreReleasesBothPins : Prop :=
  ∀ s : State, exec .calRestore s = .next { s with
    sclOut := true, sdaOut := true, ret := some .ok, pos := .idle
    trace := s.trace ++ [.set .scl true, .set .sda true] }

/-- R129: CAL_BUDGET takes the whole measured overhead, summed on naturals, from both tick counts, saturating at 0. -/
def Obligations.CalBudgetSubtractsTheWholeOverhead : Prop :=
  ∀ (s : State) (h l u cs cd : Tick), ∃ hb lb : Tick,
    hb.toNat = h.toNat - (u.toNat + cs.toNat + cd.toNat) ∧ lb.toNat = l.toNat - (u.toNat + cs.toNat + cd.toNat) ∧
    exec (.calBudget h l u cs cd) s = .next { s with ret := some (.budgets hb lb), pos := .idle }

/-! ### The sequencer's states -/

/-- R183 and R184: `start` and `repeated_start` have one action: SEND_START, then write_address. -/
def Obligations.StartStatesSendStart : Prop :=
  ∀ s : State, clockServes [s.highBudget, s.highBudget, s.lowBudget] s.env.up s.env.lastUp = true →
    ∃ t tr up last, shown tr = shown s.trace ++ startEvents s.highBudget s.lowBudget ∧
      t = { s with
        seqState := .writeAddress, sclOut := false, sdaOut := false, pos := .idle, trace := tr
        env := { s.env with up := up, lastUp := last } } ∧
      exec .stStart s = .next t ∧ exec .stRepeatedStart s = .next t

/-- R185: write_address sends `{ADDR, RW}` with `RW = 0` while WBUF is not exhausted. NACK: `ERR` takes `NoSuchDevice` if it is `NONE`
and `STATE` is `bus_error`; ACK: `write`, else `read`, else `send_stop`. When the WRITE_BYTE of that byte aborts: `raise
Timeout(e)`. -/
def Obligations.WriteAddressStateChoosesTheSuccessor : Prop :=
  ∀ s : State,
    let byte : Byte := s.addr ++ (if s.wcur < s.wlen then 0#1 else 1#1)
    (∀ (ks : List Nat) (ack : Bit) (vs bs : List Bit) (rs : List PollAnswer),
      ks.length = 8 → s.env.scl = sclAnswers ks ++ vs → s.env.poll = pollsOk ks.sum ++ rs → s.env.sda = ack :: bs →
      clockServesCells 9 s = true →
      ∃ up last tr, shown tr = shown s.trace ++ sentFrame s.highBudget s.lowBudget byte ks ack ∧
        exec .stWriteAddress s = .next { s with
          shreg := 0, bitcnt := 8, ackbit := ack, sclOut := false, sdaOut := true, pos := .idle, trace := tr
          loc := { s.loc with bit := ack }
          env := { s.env with scl := vs, poll := rs, sda := bs, up := up, lastUp := last }
          err := if ack = true ∧ s.err = .none then .noSuchDevice else s.err
          seqState :=
            if ack then .busError else if s.wcur < s.wlen then .write
            else if s.rcur < s.rlen then .read else .sendStop }) ∧
    ∀ t e, exec (.writeByte byte) s = .next t → t.ret = some (.abort e) →
      exec .stWriteAddress s = .next { t with
        ret := s.ret, err := if s.err = .none then .timeout e else s.err, seqState := .busError }

/-- R186: write sends `WBUF[WCUR]` and advances `WCUR`. NACK: `ERR` takes `IoError` if it is `NONE` and `STATE` is `bus_error`; ACK:
`write` while bytes remain, else `repeated_start` if a read is pending, else `send_stop`. When the WRITE_BYTE of that byte
aborts: `raise Timeout(e)`, `WCUR` not advanced. -/
def Obligations.WriteStateSendsOneByte : Prop :=
  ∀ (s : State) (v : Byte), s.wcur < s.wlen → Memory.read s.wbuf s.wcur = some v →
    (∀ (ks : List Nat) (ack : Bit) (vs bs : List Bit) (rs : List PollAnswer),
      ks.length = 8 → s.env.scl = sclAnswers ks ++ vs → s.env.poll = pollsOk ks.sum ++ rs → s.env.sda = ack :: bs →
      clockServesCells 9 s = true →
      ∃ up last tr,
        shown tr = shown s.trace ++ .readWbuf s.wcur v :: sentFrame s.highBudget s.lowBudget v ks ack ∧
        exec .stWrite s = .next { s with
          wcur := s.wcur + 1, shreg := 0, bitcnt := 8, ackbit := ack, sclOut := false, sdaOut := true, pos := .idle
          trace := tr, loc := { s.loc with bit := ack }
          env := { s.env with scl := vs, poll := rs, sda := bs, up := up, lastUp := last }
          err := if ack = true ∧ s.err = .none then .ioError else s.err
          seqState :=
            if ack then .busError else if s.wcur + 1 < s.wlen then .write
            else if s.rcur < s.rlen then .repeatedStart else .sendStop }) ∧
    ∀ t e, exec (.writeByte v) { s with trace := s.trace ++ [.readWbuf s.wcur v] } = .next t →
      t.ret = some (.abort e) →
      exec .stWrite s = .next { t with
        ret := s.ret, err := if s.err = .none then .timeout e else s.err, seqState := .busError }

/-- R187: read receives a byte, stores it at `RBUF[RCUR]` and at no other index, advances `RCUR`, and then writes 0 (ACK) if more
bytes are wanted, going on with `read`, else 1 (NACK), going to `send_stop`; an abort in that cell is `raise Timeout(e)`,
the byte stored and `RCUR` advanced. `ACKBIT` is not written. -/
def Obligations.ReadStateStoresOneByteAndAcknowledges : Prop :=
  ∀ (s : State) (v : Byte) (k : Nat) (vs bs : List Bit) (rs : List PollAnswer),
    s.rcur < s.rlen → s.env.sda = wireBits v ++ bs →
    let more : Bool := decide (s.rcur + 1 < s.rlen)
    let stored (rb : Memory) : Prop :=
      Memory.read rb s.rcur = some v ∧ ∀ a, a ≠ s.rcur → Memory.read rb a = Memory.read s.rbuf a
    let received := shown s.trace ++ receivedCells s.highBudget s.lowBudget v ++ [.wroteRbuf s.rcur v]
    (s.env.scl = List.replicate k false ++ true :: vs → s.env.poll = pollsOk k ++ rs → clockServesCells 9 s = true →
      ∃ up last tr rb, stored rb ∧
        shown tr = received ++ drivenCell s.highBudget s.lowBudget (!more) k ∧
        exec .stRead s = .next { s with
          rbuf := rb, rcur := s.rcur + 1, shreg := v, bitcnt := 8, sclOut := false, sdaOut := !more, pos := .idle
          seqState := if more then .read else .sendStop, trace := tr, loc := { s.loc with bit := v.getLsbD 0 }
          env := { s.env with scl := vs, poll := rs, sda := bs, up := up, lastUp := last } }) ∧
    ∀ e, s.env.scl = List.replicate k false ++ false :: vs → s.env.poll = pollsOk k ++ .fail e :: rs →
      clockServesCells 8 s = true →
      ∃ up last tr rb, stored rb ∧
        shown tr = received ++ [.set .sda (!more), .set .scl true] ++ stretchEvents k ++
          [.get .scl false, .poll (.fail e)] ∧
        exec .stRead s = .next { s with
          rbuf := rb, rcur := s.rcur + 1, shreg := v, bitcnt := 8, sclOut := true, sdaOut := !more, pos := .idle
          err := if s.err = .none then .timeout e else s.err, seqState := .busError, trace := tr
          loc := { s.loc with bit := v.getLsbD 0 }
          env := { s.env with scl := vs, poll := rs, sda := bs, up := up, lastUp := last } }

/-- An index outside its buffer has no meaning, a fault (20_memory.md R62, R63): write at `WCUR ≥ WLEN` stops before any cell,
read at `RCUR ≥ RLEN` stops when it comes to store the byte it received. -/
def Obligations.OutOfRangeBufferAccessFaults : Prop :=
  ∀ s : State,
    (¬ s.wcur < s.wlen → exec .stWrite s = .fault .wbufRange) ∧
    ∀ (v : Byte) (bs : List Bit), ¬ s.rcur < s.rlen → s.env.sda = wireBits v ++ bs → clockServesCells 8 s = true →
      exec .stRead s = .fault .rbufRange

/-- R188 and R189: `send_stop` and `bus_error` have one action: SEND_STOP, then done; `ERR` is not changed. -/
def Obligations.StopStatesSendStop : Prop :=
  ∀ s : State, clockServes [s.highBudget, s.highBudget] s.env.up s.env.lastUp = true →
    ∃ t tr up last, shown tr = shown s.trace ++ stopEvents s.highBudget ∧
      t = { s with
        seqState := .done, sclOut := true, sdaOut := true, pos := .idle, trace := tr
        env := { s.env with up := up, lastUp := last } } ∧
      exec .stSendStop s = .next t ∧ exec .stBusError s = .next t

/-- R190: done has no action and no successor: no poll, no event. A transaction in progress ends there and the command returns
`ERR`, on which the host's view of RBUF rests from then on (log 15); without one nothing changes. `STATE` stays `done` until the next transaction's entry, and is `done` at reset. -/
def Obligations.DoneReturnsTheError : Prop :=
  State.reset.seqState = .done ∧
  ∀ s : State,
    let returned : State := { s with
      inTxn := false, reply := some s.err, txnEnd := some { result := s.err, moment := s.trace.length } }
    (s.inTxn = true → exec .stDone s = .next returned) ∧
    (s.inTxn = false → exec .stDone s = .next s) ∧
    (s.seqState = .done → s.inTxn = true → s.pos = .idle → s.port = none →
      step s = .next returned) ∧
    (s.seqState = .done → s.pos = .idle → ∀ t, step s = .next t →
      t.seqState = .done ∨ (t.seqState = .start ∧ s.inTxn = false ∧ t.inTxn = true ∧ t.trace = s.trace))

/-! ### Whole-machine rules -/

/-- The symbols of an operation's pin sets, decoded from the latches (95_test_vectors.md Part 3); what the wire shows depends on
when a peripheral lets SCL go (70 R252). SEND_START shows exactly one START, entered from a released bus or with SCL low,
and a STOP shape before it entered with latches (1,0). SEND_STOP shows exactly one STOP, entered with SCL low or with
latches (1,0), as after an aborted WRITE_BIT(0), and a START shape before it entered with both latches at 1
(30_encoding.md R94; 41 R150, R151). -/
def Obligations.StartAndStopShowTheirSymbols : Prop :=
  ∀ s t : State,
    (exec .sendStart s = .next t → t.pos = .idle → (s.sclOut = false ∨ s.sdaOut = true) →
      symbolsBetween s t = [.start]) ∧
    (exec .sendStart s = .next t → t.pos = .idle → s.sclOut = true → s.sdaOut = false →
      symbolsBetween s t = [.stop, .start]) ∧
    (exec .sendStop s = .next t → t.pos = .idle → (s.sclOut = false ∨ s.sdaOut = false) →
      symbolsBetween s t = [.stop]) ∧
    (exec .sendStop s = .next t → t.pos = .idle → s.sclOut = true → s.sdaOut = true →
      symbolsBetween s t = [.start, .stop])

/-- `ACKBIT` "is written by WRITE_BYTE ... No other operation writes it" (10_state.md R28): an operation that does not send a
byte leaves it as it is. -/
def Obligations.OnlySentBytesWriteAckbit : Prop :=
  ∀ (i : Instr) (s t : State), exec i s = .next t → t.ackbit ≠ s.ackbit →
    i = .stWriteAddress ∨ i = .stWrite ∨ (∃ v, i = .writeByte v) ∨ (∃ v, i = .writeAddress v) ∨
      ∃ n buf, i = .write n buf

/-- The seven timing registers and `CONFIGURED` are written by CONFIGURE alone (10_state.md R31, R35): every other operation
leaves them as they are. -/
def Obligations.OnlyConfigureWritesTheTimingRegisters : Prop :=
  ∀ (i : Instr) (s t : State), exec i s = .next t → (∀ rate, i ≠ .configure rate) →
    t.highTicks = s.highTicks ∧ t.lowTicks = s.lowTicks ∧ t.uptimeOvh = s.uptimeOvh ∧ t.sclOvh = s.sclOvh ∧
    t.sdaOvh = s.sdaOvh ∧ t.highBudget = s.highBudget ∧ t.lowBudget = s.lowBudget ∧ t.configured = s.configured

/-- No step changes a parameter of the block, `DUTY`, the clock's frequency or `LEN_W`, and none clears `CONFIGURED`
(00_scope.md R7; 10_state.md R30, R32, R40). -/
def Obligations.ParametersAreConstantAndConfiguredStays : Prop :=
  ∀ s t : State, step s = .next t →
    t.dutyNum = s.dutyNum ∧ t.dutyDen = s.dutyDen ∧ t.fClk = s.fClk ∧ t.lenW = s.lenW ∧ (s.configured = true → t.configured = true)

/-- Every step only adds events, and the clock answers it adds rise from the previous answer (20_memory.md R72; 10_state.md
R40). -/
def Obligations.TraceGrowsAndTheClockIsMonotone : Prop :=
  ∀ s t : State, step s = .next t → ∃ es, t.trace = s.trace ++ es ∧
    (s.env.lastUp :: uptimes es).Pairwise (· ≤ ·) ∧ t.env.lastUp = (s.env.lastUp :: uptimes es).getLast (by simp)

/-- The first error is kept: once `ERR` holds one, a step leaves it, except the entry of the next transaction, which clears
it (10_state.md R29; 60_exceptions.md R219, R221). -/
def Obligations.FirstErrorIsKept : Prop :=
  ∀ s t : State, step s = .next t → s.err ≠ .none →
    t.err = s.err ∨ (s.seqState = .done ∧ s.inTxn = false ∧ t.err = .none ∧ t.seqState = .start ∧ t.trace = s.trace)

/-- `ERR` never holds `UnsupportedOperation` (10_state.md R31, C9: "codes 0, 2, 3, 4"; 60_exceptions.md R211). -/
def Obligations.ErrNeverHoldsUnsupportedOperation : Prop :=
  ∀ s t : State, step s = .next t → s.err.legalErr = true → t.err.legalErr = true

/-- Every step keeps `HIGH_BUDGET ≤ HIGH_TICKS` and `LOW_BUDGET ≤ LOW_TICKS` (10_state.md R31, C6 and C7). -/
def Obligations.StepKeepsBudgetsWithinTicks : Prop :=
  ∀ s t : State, step s = .next t → BudgetsWithinTicks s → BudgetsWithinTicks t

/-- Every step keeps the buffer spaces in their canonical form. -/
def Obligations.StepKeepsMemoryCanonical : Prop :=
  ∀ s t : State, step s = .next t → MemoryCanonical s → MemoryCanonical t

/-- R24's cursor invariant, and that lengths (and so cursors) are `LEN_W`-bit naturals (R22), are kept by every step, from
every state that has them. -/
def Obligations.StepKeepsCursorsInRange : Prop :=
  ∀ s t : State, step s = .next t → CursorsInRange s → CursorsInRange t

/-- The run invariant is kept by every step: cursors consumed as the transition table says, an error latched on the error
path, the bus released at `done` (10_state.md R24; 41 R161; 42 R192, R194). -/
def Obligations.StepKeepsTheRunInvariant : Prop :=
  ∀ s t : State, step s = .next t → RunInv s → RunInv t

/-- No fault from a state with the run invariant: the rules never access a buffer out of range ("so an out-of-range read cannot
occur", 20_memory.md R62, R63). -/
def Obligations.NoFaultUnderTheRunInvariant : Prop :=
  ∀ (s : State) (f : Fault), RunInv s → step s ≠ .fault f

/-- Reset has the invariants. -/
def Obligations.ResetHasTheInvariants : Prop :=
  MemoryCanonical State.reset ∧ CursorsInRange State.reset ∧ BudgetsWithinTicks State.reset ∧ RunInv State.reset

/-- When a transaction returns, the bus is released, the result is `ERR`, and on success both cursors are at their ends
(42_transaction_sequencer.md R194; 10_state.md R24). -/
def Obligations.ReturnLeavesTheBusReleased : Prop :=
  ∀ s t : State, RunInv s → step s = .next t → s.inTxn = true → t.inTxn = false →
    t.reply = some s.err ∧ t.txnEnd = some { result := s.err, moment := s.trace.length } ∧ t.seqState = .done ∧ t.sclOut = true ∧ t.sdaOut = true ∧ t.pos = .idle ∧
    t.trace = s.trace ∧ (t.reply = some .none → t.wcur = t.wlen ∧ t.rcur = t.rlen)

/-- The state write_address is WRITE_ADDRESS "plus the choice of successor": on the same answers the two do the same on the
wire and to the engine's registers, and when they have ended, the state is on its error path exactly when WRITE_ADDRESS did
not return `ok` (00_scope.md R3; 42_transaction_sequencer.md R185; D34). -/
def Obligations.WriteAddressStateEqualsTheComposite : Prop :=
  ∀ s t : State, exec .stWriteAddress s = .next t →
    ∃ t', exec (.writeAddress (addressByte s.addr (rwBit s))) s = .next t' ∧
      t'.trace = t.trace ∧ t'.env = t.env ∧ t'.sclOut = t.sclOut ∧ t'.sdaOut = t.sdaOut ∧ t'.shreg = t.shreg ∧
      t'.bitcnt = t.bitcnt ∧ t'.ackbit = t.ackbit ∧ (t'.pos = .idle ↔ t.pos = .idle) ∧
      (t.pos = .idle → (t.seqState = .busError ↔ t'.ret ≠ some .ok))

/-- The host's view of RBUF: nothing once a TRANSACTION is accepted (and until it returns: `HostSeesNothingDuringATransaction`);
after one that ended with `NONE` the bytes the block stored; after one that ended with an error, at every index the free
value of that return, of which nothing is known. It rests on the TRANSACTION's own result: a CONFIGURE, whatever it answers,
leaves it as it is (20_memory.md R64, R72; the free value's form, and that a CONFIGURE leaves the view, are the model's
choice, log 15). -/
def Obligations.HostSeesRbufOnlyAfterSuccess : Prop :=
  ∀ (s t : State) (i : Nat),
    (∀ addr wlen wbuf rlen, exec (.transaction addr wlen wbuf rlen) s = .next t → hostReadRbuf t i = none) ∧
    (s.inTxn = true → exec .stDone s = .next t →
      (s.err = .none → hostReadRbuf t i = Memory.read s.rbuf i) ∧
      (s.err ≠ .none → i < s.rlen →
        hostReadRbuf t i = some (Config.unspecifiedByte s.trace.length i))) ∧
    ∀ rate, exec (.configure rate) s = .next t → hostReadRbuf t i = hostReadRbuf s i

/-- While a TRANSACTION runs the host sees nothing of RBUF: "only after the command has returned" (20_memory.md R72). Reset has
no transaction's end, and no step makes one appear before the return, from any state in which a running transaction has
none (log 15). -/
def Obligations.HostSeesNothingDuringATransaction : Prop :=
  State.reset.txnEnd = none ∧
  ∀ s t : State, step s = .next t → (s.inTxn = true → s.txnEnd = none) → t.inTxn = true →
    t.txnEnd = none ∧ ∀ i, hostReadRbuf t i = none
end

