-- ==== Sys2Proof/Laws/Decode.lean ====
section
/-!
SUPPORT. The decoder and the encoder: the small lemmas of their definitions.
-/

namespace Sys2Proof

open Sys2Proof.Machine

@[simp] theorem encode_op (i : Instr) : (encode i).op = i.op := rfl
@[simp] theorem encode_args (i : Instr) : (encode i).args = i.args := rfl

/-- The decoder reads the class in the upper half of the byte lane and the index in the lower (R98, R106). -/
theorem decode_eq (w : OpWord) : decode w =
    match w.op.toNat / 16 with
    | 0 => decodeHost (w.op.toNat % 16) w.args
    | 1 => decodeSeq (w.op.toNat % 16)
    | 2 => decodeEng (w.op.toNat % 16) w.args
    | 3 => decodeCal (w.op.toNat % 16) w.args
    | _ => .error .notSixBits := rfl

/-- A code that does not fit 6 bits is no operation (R98, R101). -/
theorem decode_notSixBits (w : OpWord) (h : 64 ≤ w.op.toNat) : decode w = .error .notSixBits := by
  have h4 : 4 ≤ w.op.toNat / 16 := by omega
  rw [decode_eq]
  split <;> first | omega | rfl

/-- The state whose code is `c`, and its code: all eight codes are states (R25, R96). -/
theorem SeqState.code_ofCode (c : BitVec 3) : (SeqState.ofCode c).code = c := by
  revert c
  decide

/-- The operation `STATE` selects is of class SEQ (R98). -/
theorem SeqState.instr_opClass (st : SeqState) : st.instr.opClass = .seq := by cases st <;> rfl

/-- A table word in range carries its number in the byte lane. -/
theorem tableWord_op {w : Nat} (h : w < 256) : (tableWord 8 w).op = BitVec.ofNat 8 w := by simp [tableWord, h]

end Sys2Proof
end

