-- ==== Sys2Proof/Laws/Memory.lean ====
section
/-!
SUPPORT. The buffer spaces: a read after a write, and that every operation keeps the canonical form.
-/

namespace Sys2Proof.Machine

theorem Memory.read_write_same (m : Memory) (a : Nat) (v : Byte) :
    Memory.read (Memory.write m a v) a = some v := by
  induction m with
  | nil => simp [Memory.write, Memory.read]
  | cons c m ih =>
    obtain ⟨b, w⟩ := c
    simp only [Memory.write]
    split
    · simp [Memory.read]
    · split
      · simp [Memory.read]
      · simp [Memory.read, *]

theorem Memory.read_write_other (m : Memory) (a b : Nat) (v : Byte) (h : b ≠ a) :
    Memory.read (Memory.write m a v) b = Memory.read m b := by
  induction m with
  | nil => simp [Memory.write, Memory.read, h]
  | cons c m ih =>
    obtain ⟨k, w⟩ := c
    simp only [Memory.write]
    split
    · simp [Memory.read, h]
    · split
      · rename_i h2
        subst h2
        simp [Memory.read, h]
      · simp [Memory.read, ih]

theorem Memory.risesFrom_mono {lo hi : Nat} {m : Memory} (h : Memory.risesFrom hi m = true) (hl : lo ≤ hi) :
    Memory.risesFrom lo m = true := by
  cases m with
  | nil => rfl
  | cons c m =>
    simp only [Memory.risesFrom, Bool.and_eq_true, decide_eq_true_eq] at h ⊢
    exact ⟨by omega, h.2⟩

theorem Memory.write_risesFrom (m : Memory) (a : Nat) (v : Byte) (lo : Nat) (hm : Memory.risesFrom lo m = true)
    (ha : lo ≤ a) : Memory.risesFrom lo (Memory.write m a v) = true := by
  induction m generalizing lo with
  | nil => simp [Memory.write, Memory.risesFrom, ha]
  | cons c m ih =>
    obtain ⟨b, w⟩ := c
    simp only [Memory.risesFrom, Bool.and_eq_true, decide_eq_true_eq] at hm
    simp only [Memory.write]
    split
    · simp only [Memory.risesFrom, Bool.and_eq_true, decide_eq_true_eq]
      exact ⟨ha, by omega, hm.2⟩
    · split
      · rename_i h2
        subst h2
        simp only [Memory.risesFrom, Bool.and_eq_true, decide_eq_true_eq]
        exact ⟨ha, hm.2⟩
      · simp only [Memory.risesFrom, Bool.and_eq_true, decide_eq_true_eq]
        exact ⟨hm.1, ih (b + 1) hm.2 (by omega)⟩

/-- A store keeps the canonical form. -/
theorem Memory.write_wf (m : Memory) (a : Nat) (v : Byte) (h : m.wf = true) : (Memory.write m a v).wf = true :=
  Memory.write_risesFrom m a v 0 h (Nat.zero_le a)

theorem Memory.ofBytesFrom_risesFrom (bs : List Byte) (k : Nat) :
    Memory.risesFrom k (Memory.ofBytesFrom k bs) = true := by
  induction bs generalizing k with
  | nil => rfl
  | cons b bs ih => simp [Memory.ofBytesFrom, Memory.risesFrom, ih]

/-- A buffer the host hands over is in canonical form. -/
theorem Memory.ofBytes_wf (bs : List Byte) : (Memory.ofBytes bs).wf = true :=
  Memory.ofBytesFrom_risesFrom bs 0

theorem Memory.read_ofBytesFrom (bs : List Byte) (k j : Nat) :
    Memory.read (Memory.ofBytesFrom k bs) (k + j) = bs[j]? := by
  induction bs generalizing k j with
  | nil => simp [Memory.ofBytesFrom, Memory.read]
  | cons b bs ih =>
    cases j with
    | zero => simp [Memory.ofBytesFrom, Memory.read]
    | succ j =>
      have h : k + (j + 1) = (k + 1) + j := by omega
      have hk : ¬ (k + 1 + j = k) := by omega
      simp [Memory.ofBytesFrom, Memory.read, h, hk, ih]

/-- Byte `j` of a buffer the host hands over (R67). -/
theorem Memory.read_ofBytes (bs : List Byte) (j : Nat) : Memory.read (Memory.ofBytes bs) j = bs[j]? := by
  simpa [Memory.ofBytes] using Memory.read_ofBytesFrom bs 0 j

theorem Memory.nil_wf : Memory.wf [] = true := rfl

end Sys2Proof.Machine
end

