-- ==== Sys2Proof/Laws/State.lean ====
section
/-!
SUPPORT. One lemma per field per update of the state, each by rfl, so that no later proof unfolds a record update.
-/

namespace Sys2Proof.Machine

@[simp] theorem emit_dutyNum (e : Event) (s : State) : (emit e s).dutyNum = s.dutyNum := rfl
@[simp] theorem emit_dutyDen (e : Event) (s : State) : (emit e s).dutyDen = s.dutyDen := rfl
@[simp] theorem emit_addr (e : Event) (s : State) : (emit e s).addr = s.addr := rfl
@[simp] theorem emit_wlen (e : Event) (s : State) : (emit e s).wlen = s.wlen := rfl
@[simp] theorem emit_rlen (e : Event) (s : State) : (emit e s).rlen = s.rlen := rfl
@[simp] theorem emit_wcur (e : Event) (s : State) : (emit e s).wcur = s.wcur := rfl
@[simp] theorem emit_rcur (e : Event) (s : State) : (emit e s).rcur = s.rcur := rfl
@[simp] theorem emit_shreg (e : Event) (s : State) : (emit e s).shreg = s.shreg := rfl
@[simp] theorem emit_bitcnt (e : Event) (s : State) : (emit e s).bitcnt = s.bitcnt := rfl
@[simp] theorem emit_ackbit (e : Event) (s : State) : (emit e s).ackbit = s.ackbit := rfl
@[simp] theorem emit_seqState (e : Event) (s : State) : (emit e s).seqState = s.seqState := rfl
@[simp] theorem emit_highTicks (e : Event) (s : State) : (emit e s).highTicks = s.highTicks := rfl
@[simp] theorem emit_lowTicks (e : Event) (s : State) : (emit e s).lowTicks = s.lowTicks := rfl
@[simp] theorem emit_uptimeOvh (e : Event) (s : State) : (emit e s).uptimeOvh = s.uptimeOvh := rfl
@[simp] theorem emit_sclOvh (e : Event) (s : State) : (emit e s).sclOvh = s.sclOvh := rfl
@[simp] theorem emit_sdaOvh (e : Event) (s : State) : (emit e s).sdaOvh = s.sdaOvh := rfl
@[simp] theorem emit_highBudget (e : Event) (s : State) : (emit e s).highBudget = s.highBudget := rfl
@[simp] theorem emit_lowBudget (e : Event) (s : State) : (emit e s).lowBudget = s.lowBudget := rfl
@[simp] theorem emit_configured (e : Event) (s : State) : (emit e s).configured = s.configured := rfl
@[simp] theorem emit_err (e : Event) (s : State) : (emit e s).err = s.err := rfl
@[simp] theorem emit_sclOut (e : Event) (s : State) : (emit e s).sclOut = s.sclOut := rfl
@[simp] theorem emit_sdaOut (e : Event) (s : State) : (emit e s).sdaOut = s.sdaOut := rfl
@[simp] theorem emit_fClk (e : Event) (s : State) : (emit e s).fClk = s.fClk := rfl
@[simp] theorem emit_lenW (e : Event) (s : State) : (emit e s).lenW = s.lenW := rfl
@[simp] theorem emit_wbuf (e : Event) (s : State) : (emit e s).wbuf = s.wbuf := rfl
@[simp] theorem emit_rbuf (e : Event) (s : State) : (emit e s).rbuf = s.rbuf := rfl
@[simp] theorem emit_sink (e : Event) (s : State) : (emit e s).sink = s.sink := rfl
@[simp] theorem emit_env (e : Event) (s : State) : (emit e s).env = s.env := rfl
@[simp] theorem emit_loc (e : Event) (s : State) : (emit e s).loc = s.loc := rfl
@[simp] theorem emit_pos (e : Event) (s : State) : (emit e s).pos = s.pos := rfl
@[simp] theorem emit_inTxn (e : Event) (s : State) : (emit e s).inTxn = s.inTxn := rfl
@[simp] theorem emit_port (e : Event) (s : State) : (emit e s).port = s.port := rfl
@[simp] theorem emit_queue (e : Event) (s : State) : (emit e s).queue = s.queue := rfl
@[simp] theorem emit_reply (e : Event) (s : State) : (emit e s).reply = s.reply := rfl
@[simp] theorem emit_txnEnd (e : Event) (s : State) : (emit e s).txnEnd = s.txnEnd := rfl
@[simp] theorem emit_ret (e : Event) (s : State) : (emit e s).ret = s.ret := rfl
@[simp] theorem emit_trace (e : Event) (s : State) : (emit e s).trace = s.trace ++ [e] := rfl

@[simp] theorem pinSet_scl_dutyNum (b : Bit) (s : State) : (pinSet .scl b s).dutyNum = s.dutyNum := rfl
@[simp] theorem pinSet_scl_dutyDen (b : Bit) (s : State) : (pinSet .scl b s).dutyDen = s.dutyDen := rfl
@[simp] theorem pinSet_scl_addr (b : Bit) (s : State) : (pinSet .scl b s).addr = s.addr := rfl
@[simp] theorem pinSet_scl_wlen (b : Bit) (s : State) : (pinSet .scl b s).wlen = s.wlen := rfl
@[simp] theorem pinSet_scl_rlen (b : Bit) (s : State) : (pinSet .scl b s).rlen = s.rlen := rfl
@[simp] theorem pinSet_scl_wcur (b : Bit) (s : State) : (pinSet .scl b s).wcur = s.wcur := rfl
@[simp] theorem pinSet_scl_rcur (b : Bit) (s : State) : (pinSet .scl b s).rcur = s.rcur := rfl
@[simp] theorem pinSet_scl_shreg (b : Bit) (s : State) : (pinSet .scl b s).shreg = s.shreg := rfl
@[simp] theorem pinSet_scl_bitcnt (b : Bit) (s : State) : (pinSet .scl b s).bitcnt = s.bitcnt := rfl
@[simp] theorem pinSet_scl_ackbit (b : Bit) (s : State) : (pinSet .scl b s).ackbit = s.ackbit := rfl
@[simp] theorem pinSet_scl_seqState (b : Bit) (s : State) : (pinSet .scl b s).seqState = s.seqState := rfl
@[simp] theorem pinSet_scl_highTicks (b : Bit) (s : State) : (pinSet .scl b s).highTicks = s.highTicks := rfl
@[simp] theorem pinSet_scl_lowTicks (b : Bit) (s : State) : (pinSet .scl b s).lowTicks = s.lowTicks := rfl
@[simp] theorem pinSet_scl_uptimeOvh (b : Bit) (s : State) : (pinSet .scl b s).uptimeOvh = s.uptimeOvh := rfl
@[simp] theorem pinSet_scl_sclOvh (b : Bit) (s : State) : (pinSet .scl b s).sclOvh = s.sclOvh := rfl
@[simp] theorem pinSet_scl_sdaOvh (b : Bit) (s : State) : (pinSet .scl b s).sdaOvh = s.sdaOvh := rfl
@[simp] theorem pinSet_scl_highBudget (b : Bit) (s : State) : (pinSet .scl b s).highBudget = s.highBudget := rfl
@[simp] theorem pinSet_scl_lowBudget (b : Bit) (s : State) : (pinSet .scl b s).lowBudget = s.lowBudget := rfl
@[simp] theorem pinSet_scl_configured (b : Bit) (s : State) : (pinSet .scl b s).configured = s.configured := rfl
@[simp] theorem pinSet_scl_err (b : Bit) (s : State) : (pinSet .scl b s).err = s.err := rfl
@[simp] theorem pinSet_scl_sclOut (b : Bit) (s : State) : (pinSet .scl b s).sclOut = b := rfl
@[simp] theorem pinSet_scl_sdaOut (b : Bit) (s : State) : (pinSet .scl b s).sdaOut = s.sdaOut := rfl
@[simp] theorem pinSet_scl_fClk (b : Bit) (s : State) : (pinSet .scl b s).fClk = s.fClk := rfl
@[simp] theorem pinSet_scl_lenW (b : Bit) (s : State) : (pinSet .scl b s).lenW = s.lenW := rfl
@[simp] theorem pinSet_scl_wbuf (b : Bit) (s : State) : (pinSet .scl b s).wbuf = s.wbuf := rfl
@[simp] theorem pinSet_scl_rbuf (b : Bit) (s : State) : (pinSet .scl b s).rbuf = s.rbuf := rfl
@[simp] theorem pinSet_scl_sink (b : Bit) (s : State) : (pinSet .scl b s).sink = s.sink := rfl
@[simp] theorem pinSet_scl_env (b : Bit) (s : State) : (pinSet .scl b s).env = s.env := rfl
@[simp] theorem pinSet_scl_loc (b : Bit) (s : State) : (pinSet .scl b s).loc = s.loc := rfl
@[simp] theorem pinSet_scl_pos (b : Bit) (s : State) : (pinSet .scl b s).pos = s.pos := rfl
@[simp] theorem pinSet_scl_inTxn (b : Bit) (s : State) : (pinSet .scl b s).inTxn = s.inTxn := rfl
@[simp] theorem pinSet_scl_port (b : Bit) (s : State) : (pinSet .scl b s).port = s.port := rfl
@[simp] theorem pinSet_scl_queue (b : Bit) (s : State) : (pinSet .scl b s).queue = s.queue := rfl
@[simp] theorem pinSet_scl_reply (b : Bit) (s : State) : (pinSet .scl b s).reply = s.reply := rfl
@[simp] theorem pinSet_scl_txnEnd (b : Bit) (s : State) : (pinSet .scl b s).txnEnd = s.txnEnd := rfl
@[simp] theorem pinSet_scl_ret (b : Bit) (s : State) : (pinSet .scl b s).ret = s.ret := rfl
@[simp] theorem pinSet_scl_trace (b : Bit) (s : State) : (pinSet .scl b s).trace = s.trace ++ [.set .scl b] := rfl

@[simp] theorem pinSet_sda_dutyNum (b : Bit) (s : State) : (pinSet .sda b s).dutyNum = s.dutyNum := rfl
@[simp] theorem pinSet_sda_dutyDen (b : Bit) (s : State) : (pinSet .sda b s).dutyDen = s.dutyDen := rfl
@[simp] theorem pinSet_sda_addr (b : Bit) (s : State) : (pinSet .sda b s).addr = s.addr := rfl
@[simp] theorem pinSet_sda_wlen (b : Bit) (s : State) : (pinSet .sda b s).wlen = s.wlen := rfl
@[simp] theorem pinSet_sda_rlen (b : Bit) (s : State) : (pinSet .sda b s).rlen = s.rlen := rfl
@[simp] theorem pinSet_sda_wcur (b : Bit) (s : State) : (pinSet .sda b s).wcur = s.wcur := rfl
@[simp] theorem pinSet_sda_rcur (b : Bit) (s : State) : (pinSet .sda b s).rcur = s.rcur := rfl
@[simp] theorem pinSet_sda_shreg (b : Bit) (s : State) : (pinSet .sda b s).shreg = s.shreg := rfl
@[simp] theorem pinSet_sda_bitcnt (b : Bit) (s : State) : (pinSet .sda b s).bitcnt = s.bitcnt := rfl
@[simp] theorem pinSet_sda_ackbit (b : Bit) (s : State) : (pinSet .sda b s).ackbit = s.ackbit := rfl
@[simp] theorem pinSet_sda_seqState (b : Bit) (s : State) : (pinSet .sda b s).seqState = s.seqState := rfl
@[simp] theorem pinSet_sda_highTicks (b : Bit) (s : State) : (pinSet .sda b s).highTicks = s.highTicks := rfl
@[simp] theorem pinSet_sda_lowTicks (b : Bit) (s : State) : (pinSet .sda b s).lowTicks = s.lowTicks := rfl
@[simp] theorem pinSet_sda_uptimeOvh (b : Bit) (s : State) : (pinSet .sda b s).uptimeOvh = s.uptimeOvh := rfl
@[simp] theorem pinSet_sda_sclOvh (b : Bit) (s : State) : (pinSet .sda b s).sclOvh = s.sclOvh := rfl
@[simp] theorem pinSet_sda_sdaOvh (b : Bit) (s : State) : (pinSet .sda b s).sdaOvh = s.sdaOvh := rfl
@[simp] theorem pinSet_sda_highBudget (b : Bit) (s : State) : (pinSet .sda b s).highBudget = s.highBudget := rfl
@[simp] theorem pinSet_sda_lowBudget (b : Bit) (s : State) : (pinSet .sda b s).lowBudget = s.lowBudget := rfl
@[simp] theorem pinSet_sda_configured (b : Bit) (s : State) : (pinSet .sda b s).configured = s.configured := rfl
@[simp] theorem pinSet_sda_err (b : Bit) (s : State) : (pinSet .sda b s).err = s.err := rfl
@[simp] theorem pinSet_sda_sclOut (b : Bit) (s : State) : (pinSet .sda b s).sclOut = s.sclOut := rfl
@[simp] theorem pinSet_sda_sdaOut (b : Bit) (s : State) : (pinSet .sda b s).sdaOut = b := rfl
@[simp] theorem pinSet_sda_fClk (b : Bit) (s : State) : (pinSet .sda b s).fClk = s.fClk := rfl
@[simp] theorem pinSet_sda_lenW (b : Bit) (s : State) : (pinSet .sda b s).lenW = s.lenW := rfl
@[simp] theorem pinSet_sda_wbuf (b : Bit) (s : State) : (pinSet .sda b s).wbuf = s.wbuf := rfl
@[simp] theorem pinSet_sda_rbuf (b : Bit) (s : State) : (pinSet .sda b s).rbuf = s.rbuf := rfl
@[simp] theorem pinSet_sda_sink (b : Bit) (s : State) : (pinSet .sda b s).sink = s.sink := rfl
@[simp] theorem pinSet_sda_env (b : Bit) (s : State) : (pinSet .sda b s).env = s.env := rfl
@[simp] theorem pinSet_sda_loc (b : Bit) (s : State) : (pinSet .sda b s).loc = s.loc := rfl
@[simp] theorem pinSet_sda_pos (b : Bit) (s : State) : (pinSet .sda b s).pos = s.pos := rfl
@[simp] theorem pinSet_sda_inTxn (b : Bit) (s : State) : (pinSet .sda b s).inTxn = s.inTxn := rfl
@[simp] theorem pinSet_sda_port (b : Bit) (s : State) : (pinSet .sda b s).port = s.port := rfl
@[simp] theorem pinSet_sda_queue (b : Bit) (s : State) : (pinSet .sda b s).queue = s.queue := rfl
@[simp] theorem pinSet_sda_reply (b : Bit) (s : State) : (pinSet .sda b s).reply = s.reply := rfl
@[simp] theorem pinSet_sda_txnEnd (b : Bit) (s : State) : (pinSet .sda b s).txnEnd = s.txnEnd := rfl
@[simp] theorem pinSet_sda_ret (b : Bit) (s : State) : (pinSet .sda b s).ret = s.ret := rfl
@[simp] theorem pinSet_sda_trace (b : Bit) (s : State) : (pinSet .sda b s).trace = s.trace ++ [.set .sda b] := rfl

@[simp] theorem raise_dutyNum (k : Result) (s : State) : (raise k s).dutyNum = s.dutyNum := rfl
@[simp] theorem raise_dutyDen (k : Result) (s : State) : (raise k s).dutyDen = s.dutyDen := rfl
@[simp] theorem raise_addr (k : Result) (s : State) : (raise k s).addr = s.addr := rfl
@[simp] theorem raise_wlen (k : Result) (s : State) : (raise k s).wlen = s.wlen := rfl
@[simp] theorem raise_rlen (k : Result) (s : State) : (raise k s).rlen = s.rlen := rfl
@[simp] theorem raise_wcur (k : Result) (s : State) : (raise k s).wcur = s.wcur := rfl
@[simp] theorem raise_rcur (k : Result) (s : State) : (raise k s).rcur = s.rcur := rfl
@[simp] theorem raise_shreg (k : Result) (s : State) : (raise k s).shreg = s.shreg := rfl
@[simp] theorem raise_bitcnt (k : Result) (s : State) : (raise k s).bitcnt = s.bitcnt := rfl
@[simp] theorem raise_ackbit (k : Result) (s : State) : (raise k s).ackbit = s.ackbit := rfl
@[simp] theorem raise_seqState (k : Result) (s : State) : (raise k s).seqState = .busError := rfl
@[simp] theorem raise_highTicks (k : Result) (s : State) : (raise k s).highTicks = s.highTicks := rfl
@[simp] theorem raise_lowTicks (k : Result) (s : State) : (raise k s).lowTicks = s.lowTicks := rfl
@[simp] theorem raise_uptimeOvh (k : Result) (s : State) : (raise k s).uptimeOvh = s.uptimeOvh := rfl
@[simp] theorem raise_sclOvh (k : Result) (s : State) : (raise k s).sclOvh = s.sclOvh := rfl
@[simp] theorem raise_sdaOvh (k : Result) (s : State) : (raise k s).sdaOvh = s.sdaOvh := rfl
@[simp] theorem raise_highBudget (k : Result) (s : State) : (raise k s).highBudget = s.highBudget := rfl
@[simp] theorem raise_lowBudget (k : Result) (s : State) : (raise k s).lowBudget = s.lowBudget := rfl
@[simp] theorem raise_configured (k : Result) (s : State) : (raise k s).configured = s.configured := rfl
@[simp] theorem raise_err (k : Result) (s : State) : (raise k s).err = latchError s.err k := rfl
@[simp] theorem raise_sclOut (k : Result) (s : State) : (raise k s).sclOut = s.sclOut := rfl
@[simp] theorem raise_sdaOut (k : Result) (s : State) : (raise k s).sdaOut = s.sdaOut := rfl
@[simp] theorem raise_fClk (k : Result) (s : State) : (raise k s).fClk = s.fClk := rfl
@[simp] theorem raise_lenW (k : Result) (s : State) : (raise k s).lenW = s.lenW := rfl
@[simp] theorem raise_wbuf (k : Result) (s : State) : (raise k s).wbuf = s.wbuf := rfl
@[simp] theorem raise_rbuf (k : Result) (s : State) : (raise k s).rbuf = s.rbuf := rfl
@[simp] theorem raise_sink (k : Result) (s : State) : (raise k s).sink = s.sink := rfl
@[simp] theorem raise_env (k : Result) (s : State) : (raise k s).env = s.env := rfl
@[simp] theorem raise_loc (k : Result) (s : State) : (raise k s).loc = s.loc := rfl
@[simp] theorem raise_pos (k : Result) (s : State) : (raise k s).pos = s.pos := rfl
@[simp] theorem raise_inTxn (k : Result) (s : State) : (raise k s).inTxn = s.inTxn := rfl
@[simp] theorem raise_port (k : Result) (s : State) : (raise k s).port = s.port := rfl
@[simp] theorem raise_queue (k : Result) (s : State) : (raise k s).queue = s.queue := rfl
@[simp] theorem raise_reply (k : Result) (s : State) : (raise k s).reply = s.reply := rfl
@[simp] theorem raise_txnEnd (k : Result) (s : State) : (raise k s).txnEnd = s.txnEnd := rfl
@[simp] theorem raise_ret (k : Result) (s : State) : (raise k s).ret = s.ret := rfl
@[simp] theorem raise_trace (k : Result) (s : State) : (raise k s).trace = s.trace := rfl

@[simp] theorem returnToHost_dutyNum (s : State) : (returnToHost s).dutyNum = s.dutyNum := rfl
@[simp] theorem returnToHost_dutyDen (s : State) : (returnToHost s).dutyDen = s.dutyDen := rfl
@[simp] theorem returnToHost_addr (s : State) : (returnToHost s).addr = s.addr := rfl
@[simp] theorem returnToHost_wlen (s : State) : (returnToHost s).wlen = s.wlen := rfl
@[simp] theorem returnToHost_rlen (s : State) : (returnToHost s).rlen = s.rlen := rfl
@[simp] theorem returnToHost_wcur (s : State) : (returnToHost s).wcur = s.wcur := rfl
@[simp] theorem returnToHost_rcur (s : State) : (returnToHost s).rcur = s.rcur := rfl
@[simp] theorem returnToHost_shreg (s : State) : (returnToHost s).shreg = s.shreg := rfl
@[simp] theorem returnToHost_bitcnt (s : State) : (returnToHost s).bitcnt = s.bitcnt := rfl
@[simp] theorem returnToHost_ackbit (s : State) : (returnToHost s).ackbit = s.ackbit := rfl
@[simp] theorem returnToHost_seqState (s : State) : (returnToHost s).seqState = s.seqState := rfl
@[simp] theorem returnToHost_highTicks (s : State) : (returnToHost s).highTicks = s.highTicks := rfl
@[simp] theorem returnToHost_lowTicks (s : State) : (returnToHost s).lowTicks = s.lowTicks := rfl
@[simp] theorem returnToHost_uptimeOvh (s : State) : (returnToHost s).uptimeOvh = s.uptimeOvh := rfl
@[simp] theorem returnToHost_sclOvh (s : State) : (returnToHost s).sclOvh = s.sclOvh := rfl
@[simp] theorem returnToHost_sdaOvh (s : State) : (returnToHost s).sdaOvh = s.sdaOvh := rfl
@[simp] theorem returnToHost_highBudget (s : State) : (returnToHost s).highBudget = s.highBudget := rfl
@[simp] theorem returnToHost_lowBudget (s : State) : (returnToHost s).lowBudget = s.lowBudget := rfl
@[simp] theorem returnToHost_configured (s : State) : (returnToHost s).configured = s.configured := rfl
@[simp] theorem returnToHost_err (s : State) : (returnToHost s).err = s.err := rfl
@[simp] theorem returnToHost_sclOut (s : State) : (returnToHost s).sclOut = s.sclOut := rfl
@[simp] theorem returnToHost_sdaOut (s : State) : (returnToHost s).sdaOut = s.sdaOut := rfl
@[simp] theorem returnToHost_fClk (s : State) : (returnToHost s).fClk = s.fClk := rfl
@[simp] theorem returnToHost_lenW (s : State) : (returnToHost s).lenW = s.lenW := rfl
@[simp] theorem returnToHost_wbuf (s : State) : (returnToHost s).wbuf = s.wbuf := rfl
@[simp] theorem returnToHost_rbuf (s : State) : (returnToHost s).rbuf = s.rbuf := rfl
@[simp] theorem returnToHost_sink (s : State) : (returnToHost s).sink = s.sink := rfl
@[simp] theorem returnToHost_env (s : State) : (returnToHost s).env = s.env := rfl
@[simp] theorem returnToHost_loc (s : State) : (returnToHost s).loc = s.loc := rfl
@[simp] theorem returnToHost_pos (s : State) : (returnToHost s).pos = s.pos := rfl
@[simp] theorem returnToHost_inTxn (s : State) : (returnToHost s).inTxn = false := rfl
@[simp] theorem returnToHost_port (s : State) : (returnToHost s).port = s.port := rfl
@[simp] theorem returnToHost_queue (s : State) : (returnToHost s).queue = s.queue := rfl
@[simp] theorem returnToHost_reply (s : State) : (returnToHost s).reply = some s.err := rfl
@[simp] theorem returnToHost_txnEnd (s : State) :
    (returnToHost s).txnEnd = some { result := s.err, moment := s.trace.length } := rfl
@[simp] theorem returnToHost_ret (s : State) : (returnToHost s).ret = s.ret := rfl
@[simp] theorem returnToHost_trace (s : State) : (returnToHost s).trace = s.trace := rfl

@[simp] theorem finish_dutyNum (i : Instr) (s : State) : (finish i s).dutyNum = s.dutyNum := rfl
@[simp] theorem finish_dutyDen (i : Instr) (s : State) : (finish i s).dutyDen = s.dutyDen := rfl
@[simp] theorem finish_addr (i : Instr) (s : State) : (finish i s).addr = s.addr := rfl
@[simp] theorem finish_wlen (i : Instr) (s : State) : (finish i s).wlen = s.wlen := rfl
@[simp] theorem finish_rlen (i : Instr) (s : State) : (finish i s).rlen = s.rlen := rfl
@[simp] theorem finish_wcur (i : Instr) (s : State) : (finish i s).wcur = s.wcur := rfl
@[simp] theorem finish_rcur (i : Instr) (s : State) : (finish i s).rcur = s.rcur := rfl
@[simp] theorem finish_shreg (i : Instr) (s : State) : (finish i s).shreg = s.shreg := rfl
@[simp] theorem finish_bitcnt (i : Instr) (s : State) : (finish i s).bitcnt = s.bitcnt := rfl
@[simp] theorem finish_ackbit (i : Instr) (s : State) : (finish i s).ackbit = s.ackbit := rfl
@[simp] theorem finish_seqState (i : Instr) (s : State) : (finish i s).seqState = s.seqState := rfl
@[simp] theorem finish_highTicks (i : Instr) (s : State) : (finish i s).highTicks = s.highTicks := rfl
@[simp] theorem finish_lowTicks (i : Instr) (s : State) : (finish i s).lowTicks = s.lowTicks := rfl
@[simp] theorem finish_uptimeOvh (i : Instr) (s : State) : (finish i s).uptimeOvh = s.uptimeOvh := rfl
@[simp] theorem finish_sclOvh (i : Instr) (s : State) : (finish i s).sclOvh = s.sclOvh := rfl
@[simp] theorem finish_sdaOvh (i : Instr) (s : State) : (finish i s).sdaOvh = s.sdaOvh := rfl
@[simp] theorem finish_highBudget (i : Instr) (s : State) : (finish i s).highBudget = s.highBudget := rfl
@[simp] theorem finish_lowBudget (i : Instr) (s : State) : (finish i s).lowBudget = s.lowBudget := rfl
@[simp] theorem finish_configured (i : Instr) (s : State) : (finish i s).configured = s.configured := rfl
@[simp] theorem finish_err (i : Instr) (s : State) : (finish i s).err = s.err := rfl
@[simp] theorem finish_sclOut (i : Instr) (s : State) : (finish i s).sclOut = s.sclOut := rfl
@[simp] theorem finish_sdaOut (i : Instr) (s : State) : (finish i s).sdaOut = s.sdaOut := rfl
@[simp] theorem finish_fClk (i : Instr) (s : State) : (finish i s).fClk = s.fClk := rfl
@[simp] theorem finish_lenW (i : Instr) (s : State) : (finish i s).lenW = s.lenW := rfl
@[simp] theorem finish_wbuf (i : Instr) (s : State) : (finish i s).wbuf = s.wbuf := rfl
@[simp] theorem finish_rbuf (i : Instr) (s : State) : (finish i s).rbuf = s.rbuf := rfl
@[simp] theorem finish_sink (i : Instr) (s : State) : (finish i s).sink = s.sink := rfl
@[simp] theorem finish_env (i : Instr) (s : State) : (finish i s).env = s.env := rfl
@[simp] theorem finish_loc (i : Instr) (s : State) : (finish i s).loc = s.loc := rfl
@[simp] theorem finish_pos (i : Instr) (s : State) : (finish i s).pos = .idle := rfl
@[simp] theorem finish_inTxn (i : Instr) (s : State) : (finish i s).inTxn = s.inTxn := rfl
@[simp] theorem finish_port (i : Instr) (s : State) : (finish i s).port = s.port := rfl
@[simp] theorem finish_queue (i : Instr) (s : State) : (finish i s).queue = s.queue := rfl
@[simp] theorem finish_reply (i : Instr) (s : State) : (finish i s).reply = s.reply := rfl
@[simp] theorem finish_txnEnd (i : Instr) (s : State) : (finish i s).txnEnd = s.txnEnd := rfl
@[simp] theorem finish_ret (i : Instr) (s : State) : (finish i s).ret = returned i s := rfl
@[simp] theorem finish_trace (i : Instr) (s : State) : (finish i s).trace = s.trace := rfl

@[simp] theorem afterSpin_dutyNum (s : State) (r : LoopEnd) : (afterSpin s r).dutyNum = s.dutyNum := rfl
@[simp] theorem afterSpin_dutyDen (s : State) (r : LoopEnd) : (afterSpin s r).dutyDen = s.dutyDen := rfl
@[simp] theorem afterSpin_addr (s : State) (r : LoopEnd) : (afterSpin s r).addr = s.addr := rfl
@[simp] theorem afterSpin_wlen (s : State) (r : LoopEnd) : (afterSpin s r).wlen = s.wlen := rfl
@[simp] theorem afterSpin_rlen (s : State) (r : LoopEnd) : (afterSpin s r).rlen = s.rlen := rfl
@[simp] theorem afterSpin_wcur (s : State) (r : LoopEnd) : (afterSpin s r).wcur = s.wcur := rfl
@[simp] theorem afterSpin_rcur (s : State) (r : LoopEnd) : (afterSpin s r).rcur = s.rcur := rfl
@[simp] theorem afterSpin_shreg (s : State) (r : LoopEnd) : (afterSpin s r).shreg = s.shreg := rfl
@[simp] theorem afterSpin_bitcnt (s : State) (r : LoopEnd) : (afterSpin s r).bitcnt = s.bitcnt := rfl
@[simp] theorem afterSpin_ackbit (s : State) (r : LoopEnd) : (afterSpin s r).ackbit = s.ackbit := rfl
@[simp] theorem afterSpin_seqState (s : State) (r : LoopEnd) : (afterSpin s r).seqState = s.seqState := rfl
@[simp] theorem afterSpin_highTicks (s : State) (r : LoopEnd) : (afterSpin s r).highTicks = s.highTicks := rfl
@[simp] theorem afterSpin_lowTicks (s : State) (r : LoopEnd) : (afterSpin s r).lowTicks = s.lowTicks := rfl
@[simp] theorem afterSpin_uptimeOvh (s : State) (r : LoopEnd) : (afterSpin s r).uptimeOvh = s.uptimeOvh := rfl
@[simp] theorem afterSpin_sclOvh (s : State) (r : LoopEnd) : (afterSpin s r).sclOvh = s.sclOvh := rfl
@[simp] theorem afterSpin_sdaOvh (s : State) (r : LoopEnd) : (afterSpin s r).sdaOvh = s.sdaOvh := rfl
@[simp] theorem afterSpin_highBudget (s : State) (r : LoopEnd) : (afterSpin s r).highBudget = s.highBudget := rfl
@[simp] theorem afterSpin_lowBudget (s : State) (r : LoopEnd) : (afterSpin s r).lowBudget = s.lowBudget := rfl
@[simp] theorem afterSpin_configured (s : State) (r : LoopEnd) : (afterSpin s r).configured = s.configured := rfl
@[simp] theorem afterSpin_err (s : State) (r : LoopEnd) : (afterSpin s r).err = s.err := rfl
@[simp] theorem afterSpin_sclOut (s : State) (r : LoopEnd) : (afterSpin s r).sclOut = s.sclOut := rfl
@[simp] theorem afterSpin_sdaOut (s : State) (r : LoopEnd) : (afterSpin s r).sdaOut = s.sdaOut := rfl
@[simp] theorem afterSpin_fClk (s : State) (r : LoopEnd) : (afterSpin s r).fClk = s.fClk := rfl
@[simp] theorem afterSpin_lenW (s : State) (r : LoopEnd) : (afterSpin s r).lenW = s.lenW := rfl
@[simp] theorem afterSpin_wbuf (s : State) (r : LoopEnd) : (afterSpin s r).wbuf = s.wbuf := rfl
@[simp] theorem afterSpin_rbuf (s : State) (r : LoopEnd) : (afterSpin s r).rbuf = s.rbuf := rfl
@[simp] theorem afterSpin_sink (s : State) (r : LoopEnd) : (afterSpin s r).sink = s.sink := rfl
@[simp] theorem afterSpin_env (s : State) (r : LoopEnd) : (afterSpin s r).env = { s.env with up := r.rest, lastUp := r.last } := rfl
@[simp] theorem afterSpin_loc (s : State) (r : LoopEnd) : (afterSpin s r).loc = s.loc := rfl
@[simp] theorem afterSpin_pos (s : State) (r : LoopEnd) : (afterSpin s r).pos = s.pos := rfl
@[simp] theorem afterSpin_inTxn (s : State) (r : LoopEnd) : (afterSpin s r).inTxn = s.inTxn := rfl
@[simp] theorem afterSpin_port (s : State) (r : LoopEnd) : (afterSpin s r).port = s.port := rfl
@[simp] theorem afterSpin_queue (s : State) (r : LoopEnd) : (afterSpin s r).queue = s.queue := rfl
@[simp] theorem afterSpin_reply (s : State) (r : LoopEnd) : (afterSpin s r).reply = s.reply := rfl
@[simp] theorem afterSpin_txnEnd (s : State) (r : LoopEnd) : (afterSpin s r).txnEnd = s.txnEnd := rfl
@[simp] theorem afterSpin_ret (s : State) (r : LoopEnd) : (afterSpin s r).ret = s.ret := rfl
@[simp] theorem afterSpin_trace (s : State) (r : LoopEnd) : (afterSpin s r).trace = s.trace ++ r.reads.map .uptime := rfl

end Sys2Proof.Machine
end

