-- ==== Sys2Proof/Laws/Ops.lean ====
section
/-!
SUPPORT. The shared operations: what each read primitive, each loop and the error latch can do, said once.
-/

namespace Sys2Proof.Machine

/-! ### Arithmetic -/

theorem satSub_toNat (a : Tick) (b : Nat) : (satSub a b).toNat = a.toNat - b := by
  have := a.isLt
  simp only [satSub, BitVec.toNat_ofNat]
  exact Nat.mod_eq_of_lt (by omega)

/-- CAL_BUDGET subtracts the whole overhead, saturating (R129). -/
theorem budget_toNat (h u cs cd : Tick) : (budget h u cs cd).toNat = h.toNat - (u.toNat + cs.toNat + cd.toNat) := by
  simp [budget, overhead, satSub_toNat]

/-- Each answer is not below the previous one (R40). -/
theorem clockAnswer_ge (last t : Tick) : last ≤ clockAnswer last t := by
  unfold clockAnswer
  split
  · assumption
  · exact BitVec.le_refl _

/-- An answer that obeys the law is taken as it is (R40). -/
theorem clockAnswer_of_le {last t : Tick} (h : last ≤ t) : clockAnswer last t = t := by simp [clockAnswer, h]

/-! ### The error latch -/

@[simp] theorem latchError_none (k : Result) : latchError .none k = k := rfl

/-- The first error is kept (R29, R219). -/
theorem latchError_of_ne {e : Result} (h : e ≠ .none) (k : Result) : latchError e k = e := by simp [latchError, h]

/-- Latching an error leaves `ERR` set (R214). -/
theorem latchError_ne_none (e : Result) {k : Result} (h : k ≠ .none) : latchError e k ≠ .none := by
  unfold latchError
  split <;> assumption

/-! ### Lengths, construction and the host's view -/

/-- A length fits when it is a `LEN_W`-bit natural (R7, R99). -/
@[simp] theorem lengthFits_eq_true {s : State} {n : Nat} : lengthFits s n = true ↔ n < 2 ^ s.lenW := by
  simp [lengthFits]

/-- Construction answers a block exactly for the legal parameters (R7, R32). -/
theorem construct_next_iff {fClk num den lenW : Nat} {s : State} :
    State.construct fClk num den lenW = .next s ↔
      (0 < den ∧ num ≤ den) ∧ 0 < fClk ∧ s = State.constructed fClk num den lenW := by
  unfold State.construct
  split
  · simp; omega
  · split
    · simp; omega
    · simp only [Host.Outcome.next.injEq, eq_comm (a := s)]
      exact ⟨fun h => ⟨by omega, by omega, h⟩, fun h => h.2.2⟩

/-- While a TRANSACTION runs, and before the first, the host sees nothing (R72). -/
theorem hostReadRbuf_of_none {s : State} (h : s.txnEnd = none) (i : Nat) : hostReadRbuf s i = none := by
  simp [hostReadRbuf, h]

/-- After a TRANSACTION that ended with `NONE` the host sees what the block stored (R64). -/
theorem hostReadRbuf_of_success {s : State} {e : TxnEnd} (h : s.txnEnd = some e) (he : e.result = .none) (i : Nat) :
    hostReadRbuf s i = Memory.read s.rbuf i := by simp [hostReadRbuf, h, he]

/-- After a TRANSACTION that ended with an error every byte is a free value (R64, U4). -/
theorem hostReadRbuf_of_error {s : State} {e : TxnEnd} {i : Nat} (h : s.txnEnd = some e) (he : e.result ≠ .none)
    (hi : i < s.rlen) : hostReadRbuf s i = some (Config.unspecifiedByte e.moment i) := by
  simp [hostReadRbuf, h, he, hi]

/-- The host's view rests on RBUF, its length and the last TRANSACTION's end, and on nothing else (R64; log 15). -/
theorem hostReadRbuf_congr {s t : State} (he : t.txnEnd = s.txnEnd) (hb : t.rbuf = s.rbuf) (hl : t.rlen = s.rlen) (i : Nat) :
    hostReadRbuf t i = hostReadRbuf s i := by simp [hostReadRbuf, he, hb, hl]

/-! ### Read primitives -/

theorem takePoll_some {s t : State} {r : PollAnswer} (h : takePoll s = some (r, t)) :
    ∃ rs, s.env.poll = r :: rs ∧ t = emit (.poll r) { s with env := { s.env with poll := rs } } := by
  unfold takePoll at h
  split at h
  · cases h
  · rename_i r' rs hp
    cases h
    exact ⟨rs, hp, rfl⟩

theorem takeSda_some {s t : State} {b : Bit} (h : takeSda s = some (b, t)) :
    ∃ bs, s.env.sda = b :: bs ∧ t = emit (.get .sda b) { s with env := { s.env with sda := bs } } := by
  unfold takeSda at h
  split at h
  · cases h
  · rename_i b' bs hp
    cases h
    exact ⟨bs, hp, rfl⟩

theorem takeUptime_some {s t : State} {c : Tick} (h : takeUptime s = some (c, t)) :
    ∃ u us, s.env.up = u :: us ∧ c = clockAnswer s.env.lastUp u ∧
      t = emit (.uptime c) { s with env := { s.env with up := us, lastUp := c } } := by
  unfold takeUptime at h
  split at h
  · cases h
  · rename_i u us hp
    cases h
    exact ⟨u, us, hp, rfl, rfl⟩

/-- An answer from the environment changes nothing but the environment (R11). -/
theorem feed_eq (src : Source) (s : State) : ∃ e, feed src s = { s with env := e } ∧ e.lastUp = s.env.lastUp := by
  unfold feed
  cases src <;> dsimp only <;> split <;> exact ⟨_, rfl, rfl⟩

theorem feedFor_eq (todo : List Micro) (s : State) :
    ∃ e, feedFor todo s = { s with env := e } ∧ e.lastUp = s.env.lastUp := by
  unfold feedFor
  split
  · exact ⟨s.env, rfl, rfl⟩
  · split
    · exact ⟨s.env, rfl, rfl⟩
    · exact feed_eq _ s

/-! ### The two loops -/

/-- DELAY's loop on answers of which the first to reach the deadline is `c` (R131). -/
theorem spin_ends (n start : Tick) (cs rest : List Tick) (c last : Tick)
    (hlaw : (last :: cs ++ [c]).Pairwise (· ≤ ·)) (hcs : ∀ x ∈ cs, x - start < n) (hc : n ≤ c - start) :
    spin n start (cs ++ c :: rest) last = { ended := true, reads := cs ++ [c], rest := rest, last := c } := by
  induction cs generalizing last with
  | nil =>
    simp only [List.cons_append, List.nil_append, List.pairwise_cons, List.mem_singleton, forall_eq] at hlaw
    simp [spin, clockAnswer_of_le hlaw.1, delayOver, elapsed, hc]
  | cons x cs ih =>
    simp only [List.cons_append, List.pairwise_cons] at hlaw
    have hx : last ≤ x := hlaw.1 x (by simp)
    have hlt : ¬ n ≤ x - start := by
      have := hcs x (by simp)
      exact fun hle => absurd this (BitVec.not_lt.mpr hle)
    have := ih x (by simpa using hlaw.2) (fun y hy => hcs y (by simp [hy]))
    simp [spin, clockAnswer_of_le hx, delayOver, elapsed, hlt, this]

/-- DELAY's loop on answers none of which reaches the deadline: it reads them all and has not ended (R131, R249). -/
theorem spin_waits (n start : Tick) (cs : List Tick) (last : Tick)
    (hlaw : (last :: cs).Pairwise (· ≤ ·)) (hcs : ∀ x ∈ cs, x - start < n) :
    spin n start cs last = { ended := false, reads := cs, rest := [], last := (last :: cs).getLast (by simp) } := by
  induction cs generalizing last with
  | nil => simp [spin]
  | cons x cs ih =>
    simp only [List.pairwise_cons] at hlaw
    have hx : last ≤ x := hlaw.1 x (by simp)
    have hlt : ¬ n ≤ x - start := by
      have := hcs x (by simp)
      exact fun hle => absurd this (BitVec.not_lt.mpr hle)
    have := ih x (by simpa using hlaw.2) (fun y hy => hcs y (by simp [hy]))
    simp [spin, clockAnswer_of_le hx, delayOver, elapsed, hlt, this]

/-- The clock-stretch loop: `k` stretched polls, then SCL reads 1 (R152). -/
theorem stretchLoop_released (k : Nat) (rest : List Bit) (polls : List PollAnswer) (s : State)
    (hscl : s.env.scl = List.replicate k false ++ true :: rest) (hpoll : s.env.poll = pollsOk k ++ polls) :
    stretchLoop s.env.scl s = .released { s with
      env := { s.env with scl := rest, poll := polls }
      trace := s.trace ++ stretchEvents k ++ [.get .scl true] } := by
  induction k generalizing s with
  | zero =>
    simp only [List.replicate_zero, List.nil_append, pollsOk] at hscl hpoll
    rw [hscl]
    simp [stretchLoop, stretchEvents, emit, ← hpoll]
  | succ k ih =>
    simp only [List.replicate_succ, List.cons_append, pollsOk] at hscl hpoll
    rw [hscl]
    simp only [stretchLoop, Bool.false_eq_true, if_false, takePoll, emit, hpoll]
    have := ih { s with
      env := { s.env with scl := List.replicate k false ++ true :: rest, poll := List.replicate k .ok ++ polls }
      trace := s.trace ++ [.get .scl false] ++ [.poll .ok] } rfl rfl
    simp only at this
    rw [this]
    simp [stretchEvents, List.replicate_succ]

/-- The clock-stretch loop: `k` stretched polls, then one whose callback fails (R152). -/
theorem stretchLoop_aborted (k : Nat) (rest : List Bit) (e : TimeoutErr) (polls : List PollAnswer) (s : State)
    (hscl : s.env.scl = List.replicate k false ++ false :: rest)
    (hpoll : s.env.poll = pollsOk k ++ .fail e :: polls) :
    stretchLoop s.env.scl s = .aborted e { s with
      env := { s.env with scl := rest, poll := polls }
      trace := s.trace ++ stretchEvents k ++ [.get .scl false, .poll (.fail e)] } := by
  induction k generalizing s with
  | zero =>
    simp only [List.replicate_zero, List.nil_append, pollsOk] at hscl hpoll
    rw [hscl]
    simp [stretchLoop, stretchEvents, emit, takePoll, hpoll]
  | succ k ih =>
    simp only [List.replicate_succ, List.cons_append, pollsOk] at hscl hpoll
    rw [hscl]
    simp only [stretchLoop, Bool.false_eq_true, if_false, takePoll, emit, hpoll]
    have := ih { s with
      env := { s.env with
        scl := List.replicate k false ++ false :: rest
        poll := List.replicate k .ok ++ .fail e :: polls }
      trace := s.trace ++ [.get .scl false] ++ [.poll .ok] } rfl rfl
    simp only at this
    rw [this]
    simp [stretchEvents, List.replicate_succ]

/-- The clock-stretch loop where SCL reads 0 and the callback has not answered: it waits at the poll (R152; log 7). -/
theorem stretchLoop_waitPoll (rest : List Bit) (s : State) (hpoll : s.env.poll = []) :
    stretchLoop (false :: rest) s =
      .waitPoll { s with env := { s.env with scl := rest }, trace := s.trace ++ [.get .scl false] } := by
  simp [stretchLoop, takePoll, emit, hpoll]

/-- The answer `ok` to the poll the loop waited for leads back to `PinGet(SCL)` (R152). -/
theorem stretchPollLoop_ok {s : State} {rs : List PollAnswer} (hpoll : s.env.poll = .ok :: rs) :
    stretchPollLoop s = stretchLoop s.env.scl
      { s with env := { s.env with poll := rs }, trace := s.trace ++ [.poll .ok] } := by
  simp [stretchPollLoop, takePoll, emit, hpoll]

/-- The answer `fail(e)` to the poll the loop waited for is the abort (R152, R156). -/
theorem stretchPollLoop_fail {s : State} {e : TimeoutErr} {rs : List PollAnswer} (hpoll : s.env.poll = .fail e :: rs) :
    stretchPollLoop s =
      .aborted e { s with env := { s.env with poll := rs }, trace := s.trace ++ [.poll (.fail e)] } := by
  simp [stretchPollLoop, takePoll, emit, hpoll]

/-- Whatever way the clock-stretch loop ends, it has changed only the environment and the trace (R152). -/
def Stretch.after : Stretch → State
  | .released s | .waitScl s | .waitPoll s | .aborted _ s => s

theorem stretchLoop_after (vs : List Bit) (s : State) :
    ∃ e tr, (stretchLoop vs s).after = { s with env := e, trace := tr } ∧ e.lastUp = s.env.lastUp := by
  induction vs generalizing s with
  | nil => exact ⟨s.env, s.trace, rfl, rfl⟩
  | cons v vs ih =>
    simp only [stretchLoop]
    split
    · exact ⟨_, _, rfl, rfl⟩
    · split
      · exact ⟨_, _, rfl, rfl⟩
      · rename_i s2 h
        obtain ⟨rs, -, rfl⟩ := takePoll_some h
        obtain ⟨e, tr, h2, h3⟩ := ih (emit (.poll .ok) _)
        exact ⟨e, tr, h2, h3⟩
      · rename_i e s2 h
        obtain ⟨rs, -, rfl⟩ := takePoll_some h
        exact ⟨_, _, rfl, rfl⟩

theorem stretchPollLoop_after (s : State) :
    ∃ e tr, (stretchPollLoop s).after = { s with env := e, trace := tr } ∧ e.lastUp = s.env.lastUp := by
  unfold stretchPollLoop
  split
  · exact ⟨s.env, s.trace, rfl, rfl⟩
  · rename_i s1 h
    obtain ⟨rs, -, rfl⟩ := takePoll_some h
    obtain ⟨e, tr, h2, h3⟩ := stretchLoop_after (emit (.poll .ok) { s with env := { s.env with poll := rs } }).env.scl
      (emit (.poll .ok) { s with env := { s.env with poll := rs } })
    exact ⟨e, tr, h2, h3⟩
  · rename_i e s1 h
    obtain ⟨rs, -, rfl⟩ := takePoll_some h
    exact ⟨_, _, rfl, rfl⟩

/-! ### Traces -/

@[simp] theorem shown_append (a b : List Event) : shown (a ++ b) = shown a ++ shown b := by simp [shown]

@[simp] theorem shown_uptimes (ts : List Tick) : shown (ts.map Event.uptime) = [] := by
  induction ts with
  | nil => rfl
  | cons t ts ih => simp [shown, Event.isShown]

@[simp] theorem shown_nil : shown [] = [] := rfl
@[simp] theorem shown_set (p : Pin) (b : Bit) (es : List Event) : shown (.set p b :: es) = .set p b :: shown es := rfl
@[simp] theorem shown_get (p : Pin) (b : Bit) (es : List Event) : shown (.get p b :: es) = .get p b :: shown es := rfl
@[simp] theorem shown_poll (r : PollAnswer) (es : List Event) : shown (.poll r :: es) = .poll r :: shown es := rfl
@[simp] theorem shown_delay (n : Tick) (es : List Event) : shown (.delay n :: es) = .delay n :: shown es := rfl
@[simp] theorem shown_uptime (t : Tick) (es : List Event) : shown (.uptime t :: es) = shown es := rfl
@[simp] theorem shown_readWbuf (k : Nat) (v : Byte) (es : List Event) :
    shown (.readWbuf k v :: es) = .readWbuf k v :: shown es := rfl
@[simp] theorem shown_wroteRbuf (k : Nat) (v : Byte) (es : List Event) :
    shown (.wroteRbuf k v :: es) = .wroteRbuf k v :: shown es := rfl

theorem shown_stretchEvents (k : Nat) : shown (stretchEvents k) = stretchEvents k := by
  induction k with
  | zero => rfl
  | succ k ih =>
    simp only [stretchEvents, List.replicate_succ, List.flatten_cons, shown_append] at ih ⊢
    rw [ih]
    rfl

end Sys2Proof.Machine
end

