-- ==== Sys2Proof/Laws/Micro.lean ====
section
/-!
SUPPORT. Running micro-operations: the equations of `runMicros`, the two inductions over a program (run through it, keep an
invariant through it), what each kind of micro-operation can do, and the cells of the wire.
-/

namespace Sys2Proof.Machine

/-! ### Equations -/

@[simp] theorem runMicros_nil (i : Instr) (s : State) : runMicros i [] s = .next (finish i s) := rfl

theorem runMicros_go {i : Instr} {m : Micro} {s t : State} (ms : List Micro) (h : runMicro i m s = .go t) :
    runMicros i (m :: ms) s = runMicros i ms t := by simp [runMicros, h]

theorem runMicros_wait {i : Instr} {m m' : Micro} {s t : State} (ms : List Micro) (h : runMicro i m s = .wait m' t) :
    runMicros i (m :: ms) s = .next { t with pos := .running i (m' :: ms) } := by simp [runMicros, h]

theorem runMicros_halt {i : Instr} {m : Micro} {s t : State} (ms : List Micro) (h : runMicro i m s = .halt t) :
    runMicros i (m :: ms) s = .next { t with pos := .idle } := by simp [runMicros, h]

theorem runMicros_fault {i : Instr} {m : Micro} {s : State} {f : Fault} (ms : List Micro)
    (h : runMicro i m s = .fault f) : runMicros i (m :: ms) s = .fault f := by simp [runMicros, h]

/-! ### Running through a program -/

/-- `Passes i ms s t`: operation `i` runs through all of `ms`, from `s` to `t`, without waiting or ending. -/
def Passes (i : Instr) : List Micro → State → State → Prop
  | [], s, t => s = t
  | m :: ms, s, t => ∃ s1, runMicro i m s = .go s1 ∧ Passes i ms s1 t

theorem Passes.cons {i : Instr} {m : Micro} {ms : List Micro} {s s1 t : State} (h : runMicro i m s = .go s1)
    (hs : Passes i ms s1 t) : Passes i (m :: ms) s t := ⟨s1, h, hs⟩

theorem Passes.append {i : Instr} {ms ms' : List Micro} {s s1 t : State} (h : Passes i ms s s1)
    (h' : Passes i ms' s1 t) : Passes i (ms ++ ms') s t := by
  induction ms generalizing s with
  | nil => cases h; exact h'
  | cons m ms ih =>
    obtain ⟨s2, h1, h2⟩ := h
    exact ⟨s2, h1, ih h2⟩

/-- What a program does after the part that has been run through. -/
theorem Passes.runMicros {i : Instr} {ms : List Micro} {s t : State} (h : Passes i ms s t) (rest : List Micro) :
    runMicros i (ms ++ rest) s = runMicros i rest t := by
  induction ms generalizing s with
  | nil => cases h; rfl
  | cons m ms ih =>
    obtain ⟨s1, h1, h2⟩ := h
    rw [List.cons_append, runMicros_go _ h1, ih h2]

/-- A program that has been run through is finished. -/
theorem Passes.finish {i : Instr} {ms : List Micro} {s t : State} (h : Passes i ms s t) :
    Machine.runMicros i ms s = .next (Machine.finish i t) := by
  simpa using h.runMicros []

/-! ### Keeping an invariant -/

/-- A property of the program still to do and the state, kept from each micro-operation to the next, gives a property of
every state in which the operation stops: waiting, ended before its end, or finished. -/
theorem runMicros_induction {i : Instr} {Inv : List Micro → State → Prop} {Q : State → Prop}
    (hgo : ∀ m ms s t, Inv (m :: ms) s → runMicro i m s = .go t → Inv ms t)
    (hwait : ∀ m m' ms s t, Inv (m :: ms) s → runMicro i m s = .wait m' t → Q { t with pos := .running i (m' :: ms) })
    (hhalt : ∀ m ms s t, Inv (m :: ms) s → runMicro i m s = .halt t → Q { t with pos := .idle })
    (hend : ∀ s, Inv [] s → Q (finish i s))
    {ms : List Micro} {s t : State} (hs : Inv ms s) (h : runMicros i ms s = .next t) : Q t := by
  induction ms generalizing s with
  | nil => cases h; exact hend s hs
  | cons m ms ih =>
    simp only [runMicros] at h
    split at h
    · exact ih (hgo _ _ _ _ hs ‹_›) h
    · cases h; exact hwait _ _ _ _ _ hs ‹_›
    · cases h; exact hhalt _ _ _ _ hs ‹_›
    · cases h

/-- A program that keeps such a property never faults when no micro-operation does. -/
theorem runMicros_no_fault {i : Instr} {Inv : List Micro → State → Prop}
    (hgo : ∀ m ms s t, Inv (m :: ms) s → runMicro i m s = .go t → Inv ms t)
    (hfault : ∀ m ms s f, Inv (m :: ms) s → runMicro i m s ≠ .fault f)
    {ms : List Micro} {s : State} (hs : Inv ms s) (f : Fault) : runMicros i ms s ≠ .fault f := by
  induction ms generalizing s with
  | nil => simp
  | cons m ms ih =>
    intro h
    simp only [runMicros] at h
    split at h
    · exact ih (hgo _ _ _ _ hs ‹_›) h
    · cases h
    · cases h
    · exact hfault _ _ _ _ hs ‹_›

/-- A program never ends in a refusal. -/
theorem runMicros_not_refused (i : Instr) (ms : List Micro) (s : State) (r : Refusal) :
    runMicros i ms s ≠ .refused r := by
  induction ms generalizing s with
  | nil => simp
  | cons m ms ih =>
    simp only [runMicros]
    split <;> simp [ih]

/-! ### Delays -/

/-- The state a flow leads to, if it leads to one. -/
def Flow.after : Flow → Option State
  | .go s | .wait _ s | .halt s => some s
  | .fault _ => none

/-- DELAY's loop reads the clock and does nothing else (R131). -/
theorem delayFlow_eq (n start : Tick) (s : State) :
    ∃ e us, (delayFlow n start s = .go { s with env := e, trace := s.trace ++ us } ∨
      delayFlow n start s = .wait (.delayLoop n start) { s with env := e, trace := s.trace ++ us }) := by
  unfold delayFlow
  dsimp only
  split
  · exact ⟨_, _, .inl rfl⟩
  · exact ⟨_, _, .inr rfl⟩

theorem delayStartFlow_eq (n : Tick) (s : State) :
    ∃ e us, delayStartFlow n s = .go { s with env := e, trace := s.trace ++ us } ∨
      ∃ m, (m = .delayStart n ∨ ∃ start, m = .delayLoop n start) ∧
        delayStartFlow n s = .wait m { s with env := e, trace := s.trace ++ us } := by
  unfold delayStartFlow
  split
  · exact ⟨s.env, [], .inr ⟨_, .inl rfl, by simp⟩⟩
  · rename_i start s1 h
    obtain ⟨u, us, -, -, rfl⟩ := takeUptime_some h
    obtain ⟨e, tr, h2 | h2⟩ := delayFlow_eq n start (emit (.uptime start)
      { s with env := { s.env with up := us, lastUp := start } })
    · exact ⟨e, .uptime start :: tr, .inl (by rw [h2]; simp [emit])⟩
    · exact ⟨e, .uptime start :: tr, .inr ⟨_, .inr ⟨start, rfl⟩, by rw [h2]; simp [emit]⟩⟩

/-- `Delay(n)` emits `D(n)`, reads the clock and does nothing else (R131). -/
theorem delayWhole_eq (n : Tick) (s : State) :
    ∃ e us, delayWhole n s = .go { s with env := e, trace := s.trace ++ us } ∨
      ∃ m, (m = .delayStart n ∨ ∃ start, m = .delayLoop n start) ∧
        delayWhole n s = .wait m { s with env := e, trace := s.trace ++ us } := by
  obtain ⟨e, us, h | ⟨m, hm, h⟩⟩ := delayStartFlow_eq n (emit (.delay n) s)
  · exact ⟨e, .delay n :: us, .inl (by rw [delayWhole, h]; simp [emit])⟩
  · exact ⟨e, .delay n :: us, .inr ⟨m, hm, by rw [delayWhole, h]; simp [emit]⟩⟩

/-- `Delay(n)` on clock answers that let it end (R131, R249): the trace shows `D(n)`, and the answers left serve the delays
that follow. -/
theorem delayWhole_go (n : Tick) (ns : List Tick) (s : State)
    (h : clockServes (n :: ns) s.env.up s.env.lastUp = true) :
    ∃ up last tr, delayWhole n s = .go { s with env := { s.env with up := up, lastUp := last }, trace := tr } ∧
      shown tr = shown s.trace ++ [.delay n] ∧ clockServes ns up last = true := by
  cases hu : s.env.up with
  | nil => rw [hu] at h; cases h
  | cons t ts =>
    rw [hu] at h
    simp only [clockServes, Bool.and_eq_true] at h
    refine ⟨_, _, s.trace ++ [.delay n] ++ [.uptime (clockAnswer s.env.lastUp t)] ++
      (spin n (clockAnswer s.env.lastUp t) ts (clockAnswer s.env.lastUp t)).reads.map .uptime, ?_, ?_, h.2⟩
    · simp only [delayWhole, delayStartFlow, takeUptime, emit, hu, delayFlow, h.1, if_true, afterSpin]
    · simp

/-! ### What the wire-level operations touch -/

/-- The part of the state that a micro-operation of the wire-level operations may write (R150 to R156). -/
structure Wire where
  sclOut : Bit
  sdaOut : Bit
  shreg : Byte
  bitcnt : BitVec 4
  ackbit : Bit
  env : Env
  loc : Locals
  trace : List Event

/-- That part of a state. -/
def State.wire (s : State) : Wire :=
  { sclOut := s.sclOut, sdaOut := s.sdaOut, shreg := s.shreg, bitcnt := s.bitcnt, ackbit := s.ackbit, env := s.env
    loc := s.loc, trace := s.trace }

/-- A state with another such part; all else is as before. -/
def State.setWire (s : State) (w : Wire) : State :=
  { s with
    sclOut := w.sclOut, sdaOut := w.sdaOut, shreg := w.shreg, bitcnt := w.bitcnt, ackbit := w.ackbit, env := w.env
    loc := w.loc, trace := w.trace }

@[simp] theorem State.setWire_wire (s : State) : s.setWire s.wire = s := rfl
@[simp] theorem State.wire_setWire (s : State) (w : Wire) : (s.setWire w).wire = w := rfl
@[simp] theorem State.setWire_setWire (s : State) (w w' : Wire) : (s.setWire w).setWire w' = s.setWire w' := rfl
@[simp] theorem State.setWire_dutyNum (s : State) (w : Wire) : (s.setWire w).dutyNum = s.dutyNum := rfl
@[simp] theorem State.setWire_dutyDen (s : State) (w : Wire) : (s.setWire w).dutyDen = s.dutyDen := rfl
@[simp] theorem State.setWire_addr (s : State) (w : Wire) : (s.setWire w).addr = s.addr := rfl
@[simp] theorem State.setWire_wlen (s : State) (w : Wire) : (s.setWire w).wlen = s.wlen := rfl
@[simp] theorem State.setWire_rlen (s : State) (w : Wire) : (s.setWire w).rlen = s.rlen := rfl
@[simp] theorem State.setWire_wcur (s : State) (w : Wire) : (s.setWire w).wcur = s.wcur := rfl
@[simp] theorem State.setWire_rcur (s : State) (w : Wire) : (s.setWire w).rcur = s.rcur := rfl
@[simp] theorem State.setWire_seqState (s : State) (w : Wire) : (s.setWire w).seqState = s.seqState := rfl
@[simp] theorem State.setWire_highTicks (s : State) (w : Wire) : (s.setWire w).highTicks = s.highTicks := rfl
@[simp] theorem State.setWire_lowTicks (s : State) (w : Wire) : (s.setWire w).lowTicks = s.lowTicks := rfl
@[simp] theorem State.setWire_uptimeOvh (s : State) (w : Wire) : (s.setWire w).uptimeOvh = s.uptimeOvh := rfl
@[simp] theorem State.setWire_sclOvh (s : State) (w : Wire) : (s.setWire w).sclOvh = s.sclOvh := rfl
@[simp] theorem State.setWire_sdaOvh (s : State) (w : Wire) : (s.setWire w).sdaOvh = s.sdaOvh := rfl
@[simp] theorem State.setWire_highBudget (s : State) (w : Wire) : (s.setWire w).highBudget = s.highBudget := rfl
@[simp] theorem State.setWire_lowBudget (s : State) (w : Wire) : (s.setWire w).lowBudget = s.lowBudget := rfl
@[simp] theorem State.setWire_configured (s : State) (w : Wire) : (s.setWire w).configured = s.configured := rfl
@[simp] theorem State.setWire_err (s : State) (w : Wire) : (s.setWire w).err = s.err := rfl
@[simp] theorem State.setWire_fClk (s : State) (w : Wire) : (s.setWire w).fClk = s.fClk := rfl
@[simp] theorem State.setWire_lenW (s : State) (w : Wire) : (s.setWire w).lenW = s.lenW := rfl
@[simp] theorem State.setWire_wbuf (s : State) (w : Wire) : (s.setWire w).wbuf = s.wbuf := rfl
@[simp] theorem State.setWire_rbuf (s : State) (w : Wire) : (s.setWire w).rbuf = s.rbuf := rfl
@[simp] theorem State.setWire_sink (s : State) (w : Wire) : (s.setWire w).sink = s.sink := rfl
@[simp] theorem State.setWire_pos (s : State) (w : Wire) : (s.setWire w).pos = s.pos := rfl
@[simp] theorem State.setWire_inTxn (s : State) (w : Wire) : (s.setWire w).inTxn = s.inTxn := rfl
@[simp] theorem State.setWire_port (s : State) (w : Wire) : (s.setWire w).port = s.port := rfl
@[simp] theorem State.setWire_queue (s : State) (w : Wire) : (s.setWire w).queue = s.queue := rfl
@[simp] theorem State.setWire_reply (s : State) (w : Wire) : (s.setWire w).reply = s.reply := rfl
@[simp] theorem State.setWire_txnEnd (s : State) (w : Wire) : (s.setWire w).txnEnd = s.txnEnd := rfl
@[simp] theorem State.setWire_ret (s : State) (w : Wire) : (s.setWire w).ret = s.ret := rfl
@[simp] theorem State.setWire_sclOut (s : State) (w : Wire) : (s.setWire w).sclOut = w.sclOut := rfl
@[simp] theorem State.setWire_sdaOut (s : State) (w : Wire) : (s.setWire w).sdaOut = w.sdaOut := rfl
@[simp] theorem State.setWire_shreg (s : State) (w : Wire) : (s.setWire w).shreg = w.shreg := rfl
@[simp] theorem State.setWire_bitcnt (s : State) (w : Wire) : (s.setWire w).bitcnt = w.bitcnt := rfl
@[simp] theorem State.setWire_ackbit (s : State) (w : Wire) : (s.setWire w).ackbit = w.ackbit := rfl
@[simp] theorem State.setWire_env (s : State) (w : Wire) : (s.setWire w).env = w.env := rfl
@[simp] theorem State.setWire_loc (s : State) (w : Wire) : (s.setWire w).loc = w.loc := rfl
@[simp] theorem State.setWire_trace (s : State) (w : Wire) : (s.setWire w).trace = w.trace := rfl
@[simp] theorem State.wire_sclOut (s : State) : s.wire.sclOut = s.sclOut := rfl
@[simp] theorem State.wire_sdaOut (s : State) : s.wire.sdaOut = s.sdaOut := rfl
@[simp] theorem State.wire_shreg (s : State) : s.wire.shreg = s.shreg := rfl
@[simp] theorem State.wire_bitcnt (s : State) : s.wire.bitcnt = s.bitcnt := rfl
@[simp] theorem State.wire_ackbit (s : State) : s.wire.ackbit = s.ackbit := rfl
@[simp] theorem State.wire_env (s : State) : s.wire.env = s.env := rfl
@[simp] theorem State.wire_loc (s : State) : s.wire.loc = s.loc := rfl
@[simp] theorem State.wire_trace (s : State) : s.wire.trace = s.trace := rfl
@[simp] theorem pinSet_scl_setWire (b : Bit) (s : State) (w : Wire) :
    pinSet .scl b (s.setWire w) = s.setWire { w with sclOut := b, trace := w.trace ++ [.set .scl b] } := rfl
@[simp] theorem pinSet_sda_setWire (b : Bit) (s : State) (w : Wire) :
    pinSet .sda b (s.setWire w) = s.setWire { w with sdaOut := b, trace := w.trace ++ [.set .sda b] } := rfl

/-- `PinSet` in terms of that part (R36). -/
theorem pinSet_eq_setWire (p : Pin) (b : Bit) (s : State) : ∃ w, pinSet p b s = s.setWire w := by
  cases p
  · exact ⟨{ s.wire with sclOut := b, trace := s.trace ++ [.set .scl b] }, rfl⟩
  · exact ⟨{ s.wire with sdaOut := b, trace := s.trace ++ [.set .sda b] }, rfl⟩

/-- A wire-level micro-operation writes that part of the state alone: it goes on, waits at a wire-level micro-operation, or,
in the clock-stretch loop, aborts (R150 to R156). -/
theorem runMicro_onWire (i : Instr) (m : Micro) (s : State) (hm : m.onWire = true) :
    ∃ w, runMicro i m s = .go (s.setWire w) ∨ (∃ m', m'.onWire = true ∧ runMicro i m s = .wait m' (s.setWire w)) ∨
      ∃ e, (m = .stretch ∨ m = .stretchPoll) ∧ runMicro i m s = .halt (abort i e (s.setWire w)) := by
  have hdelay : ∀ n, ∃ w, delayWhole n s = .go (s.setWire w) ∨
      ∃ m', m'.onWire = true ∧ delayWhole n s = .wait m' (s.setWire w) := by
    intro n
    obtain ⟨e, us, h | ⟨m', hm', h⟩⟩ := delayWhole_eq n s
    · exact ⟨{ s.wire with env := e, trace := s.trace ++ us }, .inl h⟩
    · refine ⟨{ s.wire with env := e, trace := s.trace ++ us }, .inr ⟨m', ?_, h⟩⟩
      rcases hm' with rfl | ⟨_, rfl⟩ <;> rfl
  have hstretch : ∀ st : Stretch, (∃ e tr, st.after = { s with env := e, trace := tr } ∧ e.lastUp = s.env.lastUp) →
      ∃ w, stretchFlow i st = .go (s.setWire w) ∨
        (∃ m', m'.onWire = true ∧ stretchFlow i st = .wait m' (s.setWire w)) ∨
        ∃ e, stretchFlow i st = .halt (abort i e (s.setWire w)) := by
    rintro st ⟨e, tr, h, -⟩
    refine ⟨{ s.wire with env := e, trace := tr }, ?_⟩
    cases st <;> simp only [Stretch.after] at h <;> subst h
    · exact .inl rfl
    · exact .inr (.inl ⟨.stretch, rfl, rfl⟩)
    · exact .inr (.inl ⟨.stretchPoll, rfl, rfl⟩)
    · exact .inr (.inr ⟨_, rfl⟩)
  cases m with
  | set p b => obtain ⟨w, h⟩ := pinSet_eq_setWire p b s; exact ⟨w, .inl (by rw [runMicro, h])⟩
  | setMsb => obtain ⟨w, h⟩ := pinSet_eq_setWire .sda (msb s.shreg) s; exact ⟨w, .inl (by rw [runMicro, h])⟩
  | setAck => obtain ⟨w, h⟩ := pinSet_eq_setWire .sda (ackCell (decide (s.rcur < s.rlen))) s; exact ⟨w, .inl (by rw [runMicro, h])⟩
  | stretch =>
    obtain ⟨w, h | h | ⟨e, h⟩⟩ := hstretch _ (stretchLoop_after s.env.scl s)
    · exact ⟨w, .inl h⟩
    · exact ⟨w, .inr (.inl h)⟩
    · exact ⟨w, .inr (.inr ⟨e, .inl rfl, h⟩)⟩
  | stretchPoll =>
    obtain ⟨w, h | h | ⟨e, h⟩⟩ := hstretch _ (stretchPollLoop_after s)
    · exact ⟨w, .inl h⟩
    · exact ⟨w, .inr (.inl h)⟩
    · exact ⟨w, .inr (.inr ⟨e, .inr rfl, h⟩)⟩
  | delay n => obtain ⟨w, h | h⟩ := hdelay n; exacts [⟨w, .inl h⟩, ⟨w, .inr (.inl h)⟩]
  | delayHigh => obtain ⟨w, h | h⟩ := hdelay s.highBudget; exacts [⟨w, .inl h⟩, ⟨w, .inr (.inl h)⟩]
  | delayLow => obtain ⟨w, h | h⟩ := hdelay s.lowBudget; exacts [⟨w, .inl h⟩, ⟨w, .inr (.inl h)⟩]
  | delayStart n =>
    obtain ⟨e, us, h | ⟨m', hm', h⟩⟩ := delayStartFlow_eq n s
    · exact ⟨{ s.wire with env := e, trace := s.trace ++ us }, .inl h⟩
    · refine ⟨{ s.wire with env := e, trace := s.trace ++ us }, .inr (.inl ⟨m', ?_, h⟩)⟩
      rcases hm' with rfl | ⟨_, rfl⟩ <;> rfl
  | delayLoop n start =>
    obtain ⟨e, us, h | h⟩ := delayFlow_eq n start s
    · exact ⟨{ s.wire with env := e, trace := s.trace ++ us }, .inl h⟩
    · exact ⟨{ s.wire with env := e, trace := s.trace ++ us }, .inr (.inl ⟨.delayLoop n start, rfl, h⟩)⟩
  | sample =>
    simp only [runMicro]
    split
    · exact ⟨s.wire, .inr (.inl ⟨.sample, rfl, rfl⟩)⟩
    · rename_i b s1 h
      obtain ⟨bs, -, rfl⟩ := takeSda_some h
      exact ⟨{ s.wire with
        loc := { s.loc with bit := b }, env := { s.env with sda := bs }, trace := s.trace ++ [.get .sda b] }, .inl rfl⟩
  | loadByte v => exact ⟨{ s.wire with shreg := v, bitcnt := 0 }, .inl rfl⟩
  | shiftOut => exact ⟨{ s.wire with shreg := shiftIn s.shreg false, bitcnt := s.bitcnt + 1 }, .inl rfl⟩
  | shiftIn => exact ⟨{ s.wire with shreg := shiftIn s.shreg s.loc.bit, bitcnt := s.bitcnt + 1 }, .inl rfl⟩
  | latchAck => exact ⟨{ s.wire with ackbit := s.loc.bit }, .inl rfl⟩
  | failOnNack | storeSink | missingByte | storeRbuf | afterAddress | afterWrite | afterRead | goto | markUptime
  | lapUptime | lapPin | commit => cases hm

/-! ### Cells -/

/-- `Delay(n)` in terms of the part of the state it touches. -/
theorem delayWhole_wire (n : Tick) (ns : List Tick) (s : State) (w : Wire)
    (h : clockServes (n :: ns) w.env.up w.env.lastUp = true) :
    ∃ up last tr, delayWhole n (s.setWire w) =
        .go (s.setWire { w with env := { w.env with up := up, lastUp := last }, trace := tr }) ∧
      shown tr = shown w.trace ++ [.delay n] ∧ clockServes ns up last = true :=
  delayWhole_go n ns (s.setWire w) h

/-- A driven cell on answers that let it end, after `k` stretched polls (R152). -/
theorem writeCell_passes (i : Instr) (d : Micro) (b : Bit) (k : Nat) (vs : List Bit) (rs : List PollAnswer)
    (ns : List Tick) (s : State) (w : Wire) (hd : runMicro i d (s.setWire w) = .go (pinSet .sda b (s.setWire w)))
    (hscl : w.env.scl = List.replicate k false ++ true :: vs) (hpoll : w.env.poll = pollsOk k ++ rs)
    (hclk : clockServes (s.highBudget :: s.lowBudget :: ns) w.env.up w.env.lastUp = true) :
    ∃ up last tr, Passes i (writeCell d) (s.setWire w) (s.setWire { w with
        sclOut := false, sdaOut := b, trace := tr
        env := { w.env with scl := vs, poll := rs, up := up, lastUp := last } }) ∧
      shown tr = shown w.trace ++ drivenCell s.highBudget s.lowBudget b k ∧ clockServes ns up last = true := by
  let w2 : Wire := { w with sclOut := true, sdaOut := b, trace := w.trace ++ [.set .sda b] ++ [.set .scl true] }
  let w3 : Wire := { w2 with
    env := { w.env with scl := vs, poll := rs }, trace := w2.trace ++ stretchEvents k ++ [.get .scl true] }
  have h3 : runMicro i .stretch (s.setWire w2) = .go (s.setWire w3) := by
    have h : stretchLoop w.env.scl (s.setWire w2) = .released (s.setWire w3) :=
      stretchLoop_released k vs rs (s.setWire w2) hscl hpoll
    show stretchFlow i (stretchLoop w.env.scl (s.setWire w2)) = _
    rw [h]
    rfl
  obtain ⟨up, last, tr, h4, h5, h6⟩ := delayWhole_wire s.highBudget (s.lowBudget :: ns) s w3 hclk
  let w4 : Wire := { w3 with
    sclOut := false, env := { w3.env with up := up, lastUp := last }, trace := tr ++ [.set .scl false] }
  obtain ⟨up', last', tr', h7, h8, h9⟩ := delayWhole_wire s.lowBudget ns s w4 h6
  refine ⟨up', last', tr', ?_, ?_, h9⟩
  · exact .cons hd (.cons rfl (.cons h3 (.cons h4 (.cons rfl (.cons h7 rfl)))))
  · simp only [h8, w4, shown_append, h5, w3, w2, shown_stretchEvents]
    simp [drivenCell]

/-- A sampled cell on answers that let it end (R153). -/
theorem readCell_passes (i : Instr) (b : Bit) (bs : List Bit) (ns : List Tick) (s : State) (w : Wire)
    (hsda : w.env.sda = b :: bs)
    (hclk : clockServes (s.highBudget :: s.lowBudget :: ns) w.env.up w.env.lastUp = true) :
    ∃ up last tr, Passes i readCell (s.setWire w) (s.setWire { w with
        sclOut := false, sdaOut := true, trace := tr, loc := { w.loc with bit := b }
        env := { w.env with sda := bs, up := up, lastUp := last } }) ∧
      shown tr = shown w.trace ++ sampledCell s.highBudget s.lowBudget b ∧ clockServes ns up last = true := by
  let w2 : Wire := { w with sclOut := true, sdaOut := true, trace := w.trace ++ [.set .sda true] ++ [.set .scl true] }
  obtain ⟨up, last, tr, h4, h5, h6⟩ := delayWhole_wire s.highBudget (s.lowBudget :: ns) s w2 hclk
  let w3 : Wire := { w2 with env := { w.env with up := up, lastUp := last }, trace := tr }
  let w4 : Wire := { w3 with
    sclOut := false, loc := { w.loc with bit := b }, env := { w3.env with sda := bs }
    trace := tr ++ [.get .sda b] ++ [.set .scl false] }
  have hs : runMicro i .sample (s.setWire w3) = .go (s.setWire { w3 with
      loc := { w.loc with bit := b }, env := { w3.env with sda := bs }, trace := tr ++ [.get .sda b] }) := by
    simp only [runMicro, takeSda, State.setWire_env, w3, hsda]
    rfl
  obtain ⟨up', last', tr', h7, h8, h9⟩ := delayWhole_wire s.lowBudget ns s w4 h6
  refine ⟨up', last', tr', ?_, ?_, h9⟩
  · exact .cons rfl (.cons rfl (.cons h4 (.cons hs (.cons rfl (.cons h7 rfl)))))
  · simp only [h8, w4, shown_append, h5, w2]
    simp [sampledCell]

end Sys2Proof.Machine
end

