-- ==== Sys2Proof/Laws/PerInstr.lean ====
section
/-!
SUPPORT. The family OpCode, one lemma per operation: its code has 6 bits, and the two upper bits are its class (R98).
-/

namespace Sys2Proof.Laws

open Sys2Proof

/-- "`op[5:0] = {class[1:0], index[3:0]}`": the byte lane is the class, then an index below 16, and nothing above (R98). -/
def OpCode.Statement (i : Instr) : Prop := i.op.toNat / 16 = i.opClass.code.toNat

theorem OpCode.configure (rate : Nat) : OpCode.Statement (.configure rate) := by simp [OpCode.Statement, Instr.op, Instr.opClass, OpClass.code]
theorem OpCode.transaction (addr : Address) (wlen : Nat) (wbuf : List Byte) (rlen : Nat) : OpCode.Statement (.transaction addr wlen wbuf rlen) := by simp [OpCode.Statement, Instr.op, Instr.opClass, OpClass.code]
theorem OpCode.stStart : OpCode.Statement .stStart := by simp [OpCode.Statement, Instr.op, Instr.opClass, OpClass.code]
theorem OpCode.stRepeatedStart : OpCode.Statement .stRepeatedStart := by simp [OpCode.Statement, Instr.op, Instr.opClass, OpClass.code]
theorem OpCode.stWriteAddress : OpCode.Statement .stWriteAddress := by simp [OpCode.Statement, Instr.op, Instr.opClass, OpClass.code]
theorem OpCode.stWrite : OpCode.Statement .stWrite := by simp [OpCode.Statement, Instr.op, Instr.opClass, OpClass.code]
theorem OpCode.stRead : OpCode.Statement .stRead := by simp [OpCode.Statement, Instr.op, Instr.opClass, OpClass.code]
theorem OpCode.stSendStop : OpCode.Statement .stSendStop := by simp [OpCode.Statement, Instr.op, Instr.opClass, OpClass.code]
theorem OpCode.stBusError : OpCode.Statement .stBusError := by simp [OpCode.Statement, Instr.op, Instr.opClass, OpClass.code]
theorem OpCode.stDone : OpCode.Statement .stDone := by simp [OpCode.Statement, Instr.op, Instr.opClass, OpClass.code]
theorem OpCode.delay (n : Tick) : OpCode.Statement (.delay n) := by simp [OpCode.Statement, Instr.op, Instr.opClass, OpClass.code]
theorem OpCode.sendStart : OpCode.Statement .sendStart := by simp [OpCode.Statement, Instr.op, Instr.opClass, OpClass.code]
theorem OpCode.sendStop : OpCode.Statement .sendStop := by simp [OpCode.Statement, Instr.op, Instr.opClass, OpClass.code]
theorem OpCode.writeBit (bit : Bit) : OpCode.Statement (.writeBit bit) := by simp [OpCode.Statement, Instr.op, Instr.opClass, OpClass.code]
theorem OpCode.readBit : OpCode.Statement .readBit := by simp [OpCode.Statement, Instr.op, Instr.opClass, OpClass.code]
theorem OpCode.writeByte (byte : Byte) : OpCode.Statement (.writeByte byte) := by simp [OpCode.Statement, Instr.op, Instr.opClass, OpClass.code]
theorem OpCode.readByte : OpCode.Statement .readByte := by simp [OpCode.Statement, Instr.op, Instr.opClass, OpClass.code]
theorem OpCode.writeAddress (byte : Byte) : OpCode.Statement (.writeAddress byte) := by simp [OpCode.Statement, Instr.op, Instr.opClass, OpClass.code]
theorem OpCode.write (n : Nat) (buf : List Byte) : OpCode.Statement (.write n buf) := by simp [OpCode.Statement, Instr.op, Instr.opClass, OpClass.code]
theorem OpCode.read (n : Nat) : OpCode.Statement (.read n) := by simp [OpCode.Statement, Instr.op, Instr.opClass, OpClass.code]
theorem OpCode.calUptime : OpCode.Statement .calUptime := by simp [OpCode.Statement, Instr.op, Instr.opClass, OpClass.code]
theorem OpCode.calPin (pin : Pin) (u : Tick) : OpCode.Statement (.calPin pin u) := by simp [OpCode.Statement, Instr.op, Instr.opClass, OpClass.code]
theorem OpCode.calRestore : OpCode.Statement .calRestore := by simp [OpCode.Statement, Instr.op, Instr.opClass, OpClass.code]
theorem OpCode.calBudget (h l u cs cd : Tick) : OpCode.Statement (.calBudget h l u cs cd) := by simp [OpCode.Statement, Instr.op, Instr.opClass, OpClass.code]

end Sys2Proof.Laws
end

