-- ==== Sys2Proof/Laws/Step.lean ====
section
/-!
SUPPORT. What a step can do, said once: the ways a step answers a next state, each with its guards.
-/

namespace Sys2Proof.Machine

/-- The state at the head of a sequencer step: the step begins, or its poll has been answered (R182). -/
inductive AtPoll (s : State) : State → Prop
  | head (hpos : s.pos = .idle) (hst : s.seqState ≠ .done) : AtPoll s s
  | answered (hpos : s.pos = .polling) : AtPoll s (feed .poll s)

/-- The host's command has been taken from the port or from the queue (R72, R247). -/
inductive Taken (s : State) (w : OpWord) : State → Prop
  | port (h : s.port = some w) : Taken s w { s with port := none }
  | queue (ws : List OpWord) (hport : s.port = none) (h : s.queue = w :: ws) : Taken s w { s with queue := ws }

/-- The ways a step answers a next state. -/
inductive StepCase (s t : State) : Prop
  /-- an operation that waited goes on -/
  | resume (i : Instr) (todo : List Micro) (hpos : s.pos = .running i todo)
      (h : runMicros i todo (feedFor todo s) = .next t)
  /-- the operation a rule invokes -/
  | perform (w : OpWord) (i : Instr) (hpos : s.pos = .perform w) (hdec : decode w = .ok i) (hwf : i.wellFormed = true)
      (h : exec i { s with pos := .idle } = .next t)
  /-- the per-step poll waits -/
  | pollWaits (s0 : State) (hs : AtPoll s s0) (h : takePoll s0 = none) (ht : t = { s0 with pos := .polling })
  /-- the poll succeeds: the action -/
  | pollOk (s0 s1 : State) (hs : AtPoll s s0) (hp : takePoll s0 = some (.ok, s1))
      (h : exec s1.seqState.instr { s1 with pos := .idle } = .next t)
  /-- the poll fails in a state that stops: the action all the same -/
  | pollFailsActs (s0 s1 : State) (e : TimeoutErr) (hs : AtPoll s s0) (hp : takePoll s0 = some (.fail e, s1))
      (hst : s1.seqState.stops = true)
      (h : exec s1.seqState.instr { s1 with err := latchError s1.err (.timeout e), pos := .idle } = .next t)
  /-- the poll fails in another state: no action -/
  | pollFailsSkips (s0 s1 : State) (e : TimeoutErr) (hs : AtPoll s s0) (hp : takePoll s0 = some (.fail e, s1))
      (hst : s1.seqState.stops = false) (ht : t = { raise (.timeout e) s1 with pos := .idle })
  /-- the transaction returns -/
  | returns (hpos : s.pos = .idle) (hst : s.seqState = .done) (htxn : s.inTxn = true) (ht : t = returnToHost s)
  /-- a command of the host -/
  | command (w : OpWord) (s0 : State) (i : Instr) (hidle : s.isIdle = true) (hs : Taken s w s0) (hdec : decode w = .ok i)
      (hcls : i.opClass = .host) (hwf : i.wellFormed = true) (h : exec i s0 = .next t)
  /-- nothing to do -/
  | rests (hidle : s.isIdle = true) (ht : t = s)

/-- What a step does with its turn. -/
def runTurn : Turn → Host.Outcome State Fault Refusal
  | .refuse r => .refused r
  | .rest s => .next s
  | .resume i todo s => runMicros i todo s
  | .perform i s => exec i s

theorem step_eq (s : State) : step s = runTurn (nextTurn s) := rfl

theorem sequencer_cases {s s0 t : State} (hs : AtPoll s s0) (h : runTurn (sequencerTurn s0) = .next t) :
    StepCase s t := by
  unfold sequencerTurn at h
  cases hp : takePoll s0 with
  | none => simp only [hp, runTurn] at h; cases h; exact .pollWaits s0 hs hp rfl
  | some a =>
    obtain ⟨r, s1⟩ := a
    cases r with
    | ok => simp only [hp] at h; exact .pollOk s0 s1 hs hp h
    | fail e =>
      simp only [hp] at h
      cases hst : s1.seqState.stops
      · simp only [hst, pollFailed, Bool.false_eq_true, if_false, runTurn] at h
        cases h
        exact .pollFailsSkips s0 s1 e hs hp hst rfl
      · simp only [hst, pollFailed, if_true] at h
        exact .pollFailsActs s0 s1 e hs hp hst h

theorem command_cases {s s0 t : State} {w : OpWord} (hidle : s.isIdle = true) (hs : Taken s w s0)
    (h : runTurn (commandTurn w s0) = .next t) : StepCase s t := by
  unfold commandTurn at h
  cases hdec : decode w with
  | error e => simp [hdec, runTurn] at h
  | ok i =>
    cases hcls : i.opClass <;> cases hwf : i.wellFormed <;> simp [hdec, hcls, hwf, runTurn] at h
    exact .command w s0 i hidle hs hdec hcls hwf h

theorem hostTurn_cases (s : State) :
    (∃ w, s.port = some w ∧ hostTurn s = commandTurn w { s with port := none }) ∨
    (∃ w ws, s.port = none ∧ s.queue = w :: ws ∧ hostTurn s = commandTurn w { s with queue := ws }) ∨
    hostTurn s = .rest s := by
  unfold hostTurn
  split
  · exact .inl ⟨_, ‹_›, rfl⟩
  · split
    · exact .inr (.inl ⟨_, _, ‹_›, ‹_›, rfl⟩)
    · exact .inr (.inr rfl)

/-- What a step can do. -/
theorem step_cases {s t : State} (h : step s = .next t) : StepCase s t := by
  rw [step_eq] at h
  unfold nextTurn at h
  by_cases hbusy : (!s.isIdle && s.port.isSome) = true
  · simp only [hbusy, if_true] at h
    cases h
  · simp only [hbusy] at h
    cases hpos : s.pos with
    | running i todo => simp only [hpos] at h; exact .resume i todo hpos h
    | perform w =>
      simp only [hpos, performTurn] at h
      cases hdec : decode w with
      | error e => simp [hdec, runTurn] at h
      | ok i =>
        cases hwf : i.wellFormed <;> simp [hdec, hwf, runTurn] at h
        exact .perform w i hpos hdec hwf h
    | polling => simp only [hpos] at h; exact sequencer_cases (.answered hpos) h
    | idle =>
      simp only [hpos] at h
      by_cases hst : s.seqState = .done
      · simp only [hst, ne_eq, not_true_eq_false, if_false] at h
        by_cases htxn : s.inTxn = true
        · simp only [htxn, if_true, runTurn, exec, execStDone] at h
          cases h
          exact .returns hpos hst htxn (if_pos htxn)
        · have hidle : s.isIdle = true := by simp [State.isIdle, hpos, hst, htxn]
          rw [if_neg htxn] at h
          rcases hostTurn_cases s with ⟨w, hport, he⟩ | ⟨w, ws, hport, hq, he⟩ | he <;> rw [he] at h
          · exact command_cases hidle (.port hport) h
          · exact command_cases hidle (.queue ws hport hq) h
          · cases h; exact .rests hidle rfl
      · simp only [ne_eq, hst, not_false_eq_true, if_true] at h
        exact sequencer_cases (.head hpos hst) h

/-- An idle block (R247). -/
theorem State.isIdle_eq_true {s : State} (h : s.isIdle = true) : s.pos = .idle ∧ s.seqState = .done ∧ s.inTxn = false := by
  simpa [State.isIdle, and_assoc] using h

end Sys2Proof.Machine
end

