-- ==== Sys2Proof/Tests/Slice0.lean ====
section
/-!
SUPPORT. Tests. Expected results are the spec's vectors (95_test_vectors.md, V and P numbers) and words written out from
the table of 30_encoding.md R98. Then, for every statement with hypotheses, a witness that meets them together.
-/

namespace Sys2Proof.Tests

open Sys2Proof Sys2Proof.Machine

/-! ### Small states -/

/-- A value the callback fails with: the one that every choice of the open type has. -/
def e0 : TimeoutErr := ⟨0, .inl rfl⟩

/-- The state of 95_test_vectors.md Part 3: configured for 100 kHz at 1 MHz, budgets 4 and 4 (V26). -/
def ready : State :=
  { State.reset with
    highTicks := 5, lowTicks := 5, uptimeOvh := 1, highBudget := 4, lowBudget := 4, configured := true }

/-- A clock that is 4 ticks further at each read, so that a delay of 4 ticks takes two reads. -/
def clock (n : Nat) : List Tick := (List.range n).map fun k => BitVec.ofNat 64 (4 * k)

/-- A state with these answers given. -/
def answers (scl sda : List Bit) (poll : List PollAnswer) (s : State) : State :=
  { s with env := { scl := scl, sda := sda, poll := poll, up := clock 80 } }

/-- A state whose clock gives these answers. -/
def clocked (up : List Tick) (s : State) : State := { s with env := { up := up } }

/-- A state inside a transaction of one byte to write and one to read. -/
def running (st : SeqState) (wcur rcur : Nat) : State :=
  { ready with
    addr := 0x3C, wlen := 1, rlen := 1, wcur := wcur, rcur := rcur, seqState := st, inTxn := true
    wbuf := Memory.ofBytes [0x10] }

/-- SCL reads 1 in `k` driven cells. -/
def high (k : Nat) : List Bit := List.replicate k true

/-- What holds of the next state, if there is one. -/
def after {α : Type} (f : State → α) (o : Host.Outcome State Fault Refusal) : Option α :=
  match o with
  | .next t => some (f t)
  | .fault _ | .refused _ => none

/-- The refusal, if there is one. -/
def refusal (o : Host.Outcome State Fault Refusal) : Option Refusal :=
  match o with
  | .next _ | .fault _ => none
  | .refused r => some r

/-- The fault, if there is one. -/
def faulted (o : Host.Outcome State Fault Refusal) : Option Fault :=
  match o with
  | .next _ | .refused _ => none
  | .fault f => some f

/-- What the decoder reads, if anything. -/
def read? (w : OpWord) : Option Instr := (decode w).toOption

/-- The error the decoder gives, if any. -/
def rejected (op : Byte) : Option DecodeError :=
  match decode { op := op } with
  | .ok _ => none
  | .error e => some e

/-- The pair of latches. -/
def latches (s : State) : Bit × Bit := (s.sclOut, s.sdaOut)

/-! ### Well-formedness: each check refuses an ill-formed term -/

theorem test_wellformed_transaction_short : (Instr.transaction 0x3C 2 [0xAB] 0).wellFormed = false := by decide
theorem test_wellformed_transaction_long : (Instr.transaction 0x3C 0 [0xAB] 0).wellFormed = false := by decide
theorem test_wellformed_write_short : (Instr.write 2 [0xAB]).wellFormed = false := by decide
theorem test_wellformed_write : (Instr.write 1 [0xAB]).wellFormed = true := by decide

/-- A step refuses an ill-formed command. -/
theorem test_step_refuses_illformed :
    refusal (step { ready with port := some (encode (.transaction 0x3C 2 [0xAB] 0)) }) = some .illFormed := by decide

/-! ### Decoding: one word for each row of the table of R98 -/

theorem test_decode_configure : read? { op := 0b00000000, args := { rate := 100000 } } = some (.configure 100000) := by decide
theorem test_decode_transaction :
    read? { op := 0b00000001, args := { addr := 0x3C, wlen := 1, buf := [0xAB], rlen := 2 } } = some (.transaction 0x3C 1 [0xAB] 2) := by decide
theorem test_decode_stStart : read? { op := 0b00010000 } = some (.stStart) := by decide
theorem test_decode_stRepeatedStart : read? { op := 0b00010001 } = some (.stRepeatedStart) := by decide
theorem test_decode_stWriteAddress : read? { op := 0b00010010 } = some (.stWriteAddress) := by decide
theorem test_decode_stWrite : read? { op := 0b00010011 } = some (.stWrite) := by decide
theorem test_decode_stRead : read? { op := 0b00010100 } = some (.stRead) := by decide
theorem test_decode_stSendStop : read? { op := 0b00010101 } = some (.stSendStop) := by decide
theorem test_decode_stBusError : read? { op := 0b00010110 } = some (.stBusError) := by decide
theorem test_decode_stDone : read? { op := 0b00010111 } = some (.stDone) := by decide
theorem test_decode_delay : read? { op := 0b00100000, args := { ticks := 28 } } = some (.delay 28) := by decide
theorem test_decode_sendStart : read? { op := 0b00100001 } = some (.sendStart) := by decide
theorem test_decode_sendStop : read? { op := 0b00100010 } = some (.sendStop) := by decide
theorem test_decode_writeBit : read? { op := 0b00100011, args := { bit := true } } = some (.writeBit true) := by decide
theorem test_decode_readBit : read? { op := 0b00100100 } = some (.readBit) := by decide
theorem test_decode_writeByte : read? { op := 0b00100101, args := { byte := 0x78 } } = some (.writeByte 0x78) := by decide
theorem test_decode_readByte : read? { op := 0b00100110 } = some (.readByte) := by decide
theorem test_decode_writeAddress : read? { op := 0b00100111, args := { byte := 0x79 } } = some (.writeAddress 0x79) := by decide
theorem test_decode_write :
    read? { op := 0b00101000, args := { wlen := 2, buf := [1, 2] } } = some (.write 2 [1, 2]) := by decide
theorem test_decode_read : read? { op := 0b00101001, args := { rlen := 3 } } = some (.read 3) := by decide
theorem test_decode_calUptime : read? { op := 0b00110000 } = some (.calUptime) := by decide
theorem test_decode_calPin :
    read? { op := 0b00110001, args := { pin := .sda, u := 3 } } = some (.calPin .sda 3) := by decide
theorem test_decode_calRestore : read? { op := 0b00110010 } = some (.calRestore) := by decide
theorem test_decode_calBudget :
    read? { op := 0b00110011, args := { h := 40, l := 80, u := 3, cs := 5, cd := 4 } } = some (.calBudget 40 80 3 5 4) := by decide

/-- "anything not in the table is invalid" (R106), at both ends of each hole (V133). -/
theorem test_decode_rejects :
    [rejected 0b000010, rejected 0b001111, rejected 0b011000, rejected 0b011111, rejected 0b101010, rejected 0b101111,
      rejected 0b110100, rejected 0b111111, rejected 0b01000000, rejected 0b11111111] =
    [some .hostIndex, some .hostIndex, some .seqIndex, some .seqIndex, some .engIndex, some .engIndex,
      some .calIndex, some .calIndex, some .notSixBits, some .notSixBits] := by decide

/-- The table's words, 6 bits each, as the host presents them. -/
theorem test_decode_table_words :
    decodeTableWord 8 0b010011 = some .stWrite ∧ decodeTableWord 6 0b100100 = some .readBit ∧
    decodeTableWord 8 0b000001 = some (.transaction 0 0 [] 0) ∧ decodeTableWord 8 0b001111 = none := by decide

/-- The next step runs the word: SEND_START's first pin sets (R150), the refusal of R121, ST_DONE. -/
theorem test_fetch_word :
    after latches (step (State.reset.withFetchWord 8 0b100001)) = some (true, true) ∧
    refusal (step (State.reset.withFetchWord 8 0b000000)) = some .clockRateZero ∧
    after (fun t => t.seqState) (step (State.reset.withFetchWord 8 0b010111)) = some .done ∧
    refusal (step (State.reset.withFetchWord 8 0b000010)) = some .notACommand := by decide

/-! ### The operations, one step each -/

/-- V20: the seven timing registers. -/
theorem test_configure_commits :
    after (fun t => [t.highTicks, t.lowTicks, t.uptimeOvh, t.sclOvh, t.sdaOvh, t.highBudget, t.lowBudget])
      (exec (.configure 100000) (clocked [100, 103, 110, 118, 120, 127] (State.constructed 12000000 1 3 32))) =
    some [40, 80, 3, 5, 4, 28, 68] := by decide

/-- V15 and V17. -/
theorem test_configure_rejects :
    after (fun t => (t.reply, t.configured, t.trace)) (exec (.configure 1000001) State.reset) =
      some (some .unsupportedOperation, false, []) ∧
    refusal (exec (.configure 0) State.reset) = some .clockRateZero := by decide

/-- P1's command is accepted: the entry of R180. -/
theorem test_transaction_entry :
    after (fun t => (t.addr, t.wlen, t.wcur, t.seqState, Memory.read t.wbuf 0))
      (exec (.transaction 0x3C 1 [0xAB] 0) ready) = some (0x3C, 1, 0, .start, some 0xAB) := by decide

/-- `F_CLK = 0` and a length of 33 bits are outside their domains (R7, R99). -/
theorem test_parameters_refused :
    refusal (State.construct 0 1 2 32) = some .illegalClock ∧ refusal (State.construct 1 1 0 32) = some .illegalDuty ∧
    refusal (exec (.transaction 0x3C 0 [] (2 ^ 32)) ready) = some .lengthTooWide := by decide

/-- V129 and V134. -/
theorem test_transaction_refused :
    refusal (exec (.transaction 0x3C 1 [0xAB] 0) State.reset) = some .notConfigured ∧
    refusal (exec (.transaction 0x3C 1 [0xAB] 0) (running .write 0 0)) = some .commandInProgress := by decide

/-- V80, with its poll. -/
theorem test_st_start :
    after (fun t => (shown t.trace, t.seqState)) (step (answers [] [] [.ok] (running .start 0 0))) =
    some ([.poll .ok, .set .sda true, .set .scl true, .delay 4, .set .sda false, .delay 4, .set .scl false, .delay 4],
      .writeAddress) := by decide

/-- V101: a failing per-step poll skips the action. -/
theorem test_st_start_poll_fails :
    after (fun t => (t.trace, t.seqState, t.err)) (step (answers [] [] [.fail e0] (running .start 0 0))) =
    some ([.poll (.fail e0)], .busError, .timeout e0) := by decide

/-- V81. -/
theorem test_st_repeated_start :
    after (fun t => (t.seqState, t.wcur, t.rcur, latches t)) (exec .stRepeatedStart (answers [] [] [] (running .repeatedStart 1 0))) =
    some (.writeAddress, 1, 0, false, false) := by decide

/-- V82: `0x78`, its bits on the driven cells, then ACK. -/
theorem test_st_write_address :
    after (fun t => (symbols true false (shown t.trace), t.seqState, t.ackbit, t.err))
      (exec .stWriteAddress (answers (high 8) [false] [] (running .writeAddress 0 0))) =
    some ([.bit false, .bit true, .bit true, .bit true, .bit true, .bit false, .bit false, .bit false, .bit false],
      .write, false, .none) := by decide +kernel

/-- V87: `0x79` and NACK. -/
theorem test_st_write_address_nack :
    after (fun t => (t.seqState, t.ackbit, t.err, t.wcur))
      (exec .stWriteAddress (answers (high 8) [true] [] (running .writeAddress 1 0))) =
    some (.busError, true, .noSuchDevice, 1) := by decide

/-- V91: the byte of WBUF, ACK, a read pending. -/
theorem test_st_write :
    after (fun t => (t.trace.head?, t.seqState, t.wcur, t.ackbit))
      (exec .stWrite (answers (high 8) [false] [] (running .write 0 0))) =
    some (some (.readWbuf 0 0x10), .repeatedStart, 1, false) := by decide +kernel

/-- V93: the NACKed byte is counted. -/
theorem test_st_write_nack :
    after (fun t => (t.seqState, t.wcur, t.err)) (exec .stWrite (answers (high 8) [true] [] (running .write 0 0))) =
    some (.busError, 1, .ioError) := by decide

/-- V97: the last byte is stored and not acknowledged. -/
theorem test_st_read :
    after (fun t => (Memory.read t.rbuf 0, t.seqState, t.rcur, t.sdaOut, t.shreg))
      (exec .stRead (answers (high 1) (wireBits 0x5A) [] (running .read 1 0))) =
    some (some 0x5A, .sendStop, 1, true, 0x5A) := by decide

/-- V98: the byte is stored before the acknowledge cell aborts. -/
theorem test_st_read_aborts :
    after (fun t => (Memory.read t.rbuf 0, t.seqState, t.rcur, t.err, latches t))
      (exec .stRead (answers [false] (wireBits 0xDE) [.fail e0] { running .read 1 0 with rlen := 2 })) =
    some (some 0xDE, .busError, 1, .timeout e0, true, false) := by decide

/-- V106: the action is performed although the poll fails. -/
theorem test_st_send_stop :
    after (fun t => (shown t.trace, t.seqState, t.err)) (step (answers [] [] [.fail e0] (running .sendStop 1 1))) =
    some ([.poll (.fail e0), .set .sda false, .set .scl true, .delay 4, .set .sda true, .delay 4], .done,
      .timeout e0) := by decide

/-- V107: the first error is kept. -/
theorem test_st_bus_error :
    after (fun t => (t.seqState, t.err, latches t))
      (step (answers [] [] [.fail e0] { running .busError 0 0 with err := .noSuchDevice })) =
    some (.done, .noSuchDevice, true, true) := by decide

/-- V110 and P3's result: no poll, and the command returns `ERR`. -/
theorem test_st_done :
    after (fun t => (t.trace, t.reply, t.inTxn, t.seqState))
      (step (answers [] [] [.ok] { running .done 0 0 with err := .noSuchDevice })) =
    some ([], some .noSuchDevice, false, .done) := by decide

/-- V30. -/
theorem test_delay :
    after (fun t => t.trace) (exec (.delay 4) (clocked [20, 21, 23, 24] ready)) =
    some [.delay 4, .uptime 20, .uptime 21, .uptime 23, .uptime 24] := by decide

/-- V31: two reads for a delay of 0. -/
theorem test_delay_zero :
    after (fun t => (t.trace, t.ret)) (exec (.delay 0) (clocked [7, 7] ready)) =
    some ([.delay 0, .uptime 7, .uptime 7], some .ok) := by decide

/-- V200. -/
theorem test_send_start :
    after (fun t => (shown t.trace, latches t)) (exec .sendStart (answers [] [] [] ready)) =
    some ([.set .sda true, .set .scl true, .delay 4, .set .sda false, .delay 4, .set .scl false, .delay 4],
      false, false) := by decide

/-- V201. -/
theorem test_send_stop :
    after (fun t => (shown t.trace, latches t)) (exec .sendStop (answers [] [] [] ready)) =
    some ([.set .sda false, .set .scl true, .delay 4, .set .sda true, .delay 4], true, true) := by decide

/-- V204. -/
theorem test_write_bit_stretched :
    after (fun t => (shown t.trace, t.ret, latches t))
      (exec (.writeBit false) (answers [false, false, true] [] [.ok, .ok] ready)) =
    some ([.set .sda false, .set .scl true, .get .scl false, .poll .ok, .get .scl false, .poll .ok, .get .scl true,
      .delay 4, .set .scl false, .delay 4], some .ok, false, false) := by decide

/-- V206. -/
theorem test_write_bit_aborts :
    after (fun t => (t.trace, t.ret, latches t))
      (exec (.writeBit false) (answers [false, false] [] [.ok, .fail e0] ready)) =
    some ([.set .sda false, .set .scl true, .get .scl false, .poll .ok, .get .scl false, .poll (.fail e0)],
      some (.abort e0), true, false) := by decide

/-- V209. -/
theorem test_read_bit :
    after (fun t => (shown t.trace, t.ret, latches t)) (exec .readBit (answers [] [true] [] ready)) =
    some ([.set .sda true, .set .scl true, .delay 4, .get .sda true, .set .scl false, .delay 4], some (.bit true),
      false, true) := by decide

/-- V43. -/
theorem test_write_byte :
    after (fun t => (t.ret, t.ackbit, t.bitcnt, t.shreg, latches t))
      (exec (.writeByte 0xA5) (answers (high 8) [true] [] ready)) =
    some (some (.acknowledged false), true, 8, 0, false, true) := by decide

/-- V44. -/
theorem test_write_byte_aborts :
    after (fun t => (t.ret, t.bitcnt, t.shreg, latches t))
      (exec (.writeByte 0x81) (answers (high 4 ++ [false]) [] [.fail e0] ready)) =
    some (some (.abort e0), 4, 0x10, true, false) := by decide

/-- V48: the first bit received lands in bit 7. -/
theorem test_read_byte :
    after (fun t => (t.ret, t.shreg, t.bitcnt, latches t))
      (exec .readByte (answers [] [true, false, false, false, false, false, false, false] [] ready)) =
    some (some (.byte 0x80), 0x80, 8, false, true) := by decide

/-- V49 and V49a. -/
theorem test_write_address :
    after (fun t => t.ret) (exec (.writeAddress 0x78) (answers (high 8) [false] [] ready)) = some (some .ok) ∧
    after (fun t => t.ret) (exec (.writeAddress 0x79) (answers (high 8) [true] [] ready)) =
      some (some (.fail .noSuchDevice)) := by decide

/-- V49c: `0x03` is not sent. -/
theorem test_write :
    after (fun t => (t.ret, t.env.scl))
      (exec (.write 3 [0x01, 0x02, 0x03]) (answers (high 24) [false, true] [] ready)) =
    some (some (.fail .ioError), high 8) := by decide +kernel

/-- V51: the acknowledge cells open with 0, 0, 1. -/
theorem test_read :
    after (fun t => (t.ret, t.sink, (t.trace.filter (· = .set .sda false)).length, t.sdaOut))
      (exec (.read 3) { ready with
        highBudget := 0, lowBudget := 0
        env := { scl := high 3, sda := wireBits 0x11 ++ wireBits 0x22 ++ wireBits 0x33, up := List.replicate 108 7 } }) =
    some (some .ok, [(0, 0x11), (1, 0x22), (2, 0x33)], 2, true) := by decide +kernel

/-- V53: the byte is stored, then the acknowledge cell aborts. -/
theorem test_read_aborts :
    after (fun t => (t.ret, t.sink)) (exec (.read 2) (answers [false] (wireBits 0x11) [.fail e0] ready)) =
    some (some (.abort e0), [(0, 0x11)]) := by decide

/-- R125's example. -/
theorem test_cal_uptime :
    after (fun t => (t.ret, t.trace)) (exec .calUptime (clocked [100, 103] ready)) =
    some (some (.ticks 3), [.uptime 100, .uptime 103]) := by decide

/-- R126's example, and V23: a bracket below `u` saturates to 0. -/
theorem test_cal_pin :
    after (fun t => (t.ret, latches t)) (exec (.calPin .scl 3) (clocked [110, 118] ready)) =
      some (some (.ticks 5), false, true) ∧
    after (fun t => (t.ret, latches t)) (exec (.calPin .sda 2) (clocked [10, 11] ready)) =
      some (some (.ticks 0), true, false) := by decide

/-- SCL first, then SDA (R127). -/
theorem test_cal_restore :
    after (fun t => (t.trace, latches t)) (exec .calRestore { ready with sclOut := false, sdaOut := false }) =
    some ([.set .scl true, .set .sda true], true, true) := by decide

/-- R129's example, and V24's saturating high budget. -/
theorem test_cal_budget :
    after (fun t => t.ret) (exec (.calBudget 40 80 3 5 4) ready) = some (some (.budgets 28 68)) ∧
    after (fun t => t.ret) (exec (.calBudget 40 80 10 15 20) ready) = some (some (.budgets 0 35)) := by decide

/-! ### Witnesses: for each statement with hypotheses, values that meet them together -/

/-- A clock of `n` reads that all answer 7. -/
def still (n : Nat) : List Tick := List.replicate n 7

/-- `ready` with budgets 0, for long programs on a clock that stands still. -/
def swift (scl sda : List Bit) (poll : List PollAnswer) (s : State) : State :=
  { s with highBudget := 0, lowBudget := 0, env := { scl := scl, sda := sda, poll := poll, up := still 120 } }

theorem witness_ClassIsReadFromTheCode : ∃ w i, decode w = .ok i := ⟨{ op := 0b100001 }, .sendStart, by decide⟩

theorem witness_ConstructionTakesExactlyTheLegalParameters :
    (0 < 1 ∧ 0 ≤ 1 ∧ 0 < 1) ∧ (0 < 3 ∧ 3 ≤ 3 ∧ 0 = 0) ∧ ¬(0 < 0 ∧ 0 ≤ 0) ∧ ¬(0 < 3 ∧ 4 ≤ 3) := by decide

theorem witness_ConfigureTestsTheRateFirst :
    ∃ s : State, s.isIdle = true ∧ s.fClk < s.fClk + 1 ∧ 0 < s.fClk := ⟨State.reset, by decide⟩

theorem witness_ConfigureMeasuresAndCommits :
    ∃ s : State, ∃ rest, s.isIdle = true ∧ 0 < s.fClk ∧ s.fClk < 2 ^ 64 ∧ 0 < s.dutyDen ∧ s.dutyNum ≤ s.dutyDen ∧
      s.env.up = 7 :: 7 :: 7 :: 7 :: 7 :: 9 :: rest ∧ s.env.lastUp ≤ 7 :=
  ⟨clocked [7, 7, 7, 7, 7, 9] (State.constructed 12000000 1 3 32), [], by decide⟩

/-- The three ways CONFIGURE answers: turned away, waiting for the clock, committed. -/
theorem witness_ConfigureCommitsAllOrNothing :
    (∃ t, exec (.configure 1000001) State.reset = .next t) ∧ (∃ t, exec (.configure 1) State.reset = .next t) ∧
    ∃ t, exec (.configure 1) (clocked [7, 7, 7, 7, 7, 9] State.reset) = .next t :=
  ⟨⟨_, rfl⟩, ⟨_, rfl⟩, ⟨_, rfl⟩⟩

theorem witness_TickCounts :
    ∃ s : State, 0 < s.fClk ∧ s.fClk < 2 ^ 64 ∧ 0 < s.dutyDen ∧ s.dutyNum ≤ s.dutyDen ∧ s.dutyNum = 0 :=
  ⟨State.constructed 1 0 1 32, by decide⟩

theorem witness_TransactionEntry :
    ready.isIdle = true ∧ ready.configured = true ∧ 2 ^ 32 - 1 < 2 ^ ready.lenW ∧ State.reset.isIdle = true ∧ State.reset.configured = false := by
  decide

/-- The shortest length that is refused, of each buffer. -/
theorem witness_LengthsOfMoreThanLenWBitsAreRefused :
    ∃ s : State, s.isIdle = true ∧ s.configured = true ∧ 2 ^ s.lenW ≤ 2 ^ 32 := ⟨ready, by decide⟩

theorem witness_CommandDuringACommandIsRefused :
    ∃ (s : State) (w : OpWord), s.isIdle = false ∧ s.port = some w :=
  ⟨{ running .write 0 0 with port := some (encode (.configure 1)) }, encode (.configure 1), by decide⟩

theorem witness_OtherCodesAreNotCommands :
    ∃ (s : State) (w : OpWord), s.isIdle = true ∧ s.port = some w ∧ w.op ≠ 0b000000 ∧ w.op ≠ 0b000001 :=
  ⟨{ ready with port := some { op := 0b000010 } }, { op := 0b000010 }, by decide⟩

theorem witness_StepRunsTheDecodedInstruction_port :
    ∃ (s : State) (w : OpWord) (i : Instr), decode w = .ok i ∧ i.wellFormed = true ∧ s.isIdle = true ∧
      s.port = some w ∧ i.opClass = .host :=
  ⟨{ ready with port := some { op := 0b000001, args := { wlen := 1, buf := [0xAB] } } },
    { op := 0b000001, args := { wlen := 1, buf := [0xAB] } }, .transaction 0 1 [0xAB] 0, by decide⟩

theorem witness_StepRunsTheDecodedInstruction_queue :
    ∃ (s : State) (w : OpWord) (ws : List OpWord) (i : Instr), decode w = .ok i ∧ i.wellFormed = true ∧
      s.isIdle = true ∧ s.port = none ∧ s.queue = w :: ws ∧ i.opClass = .host :=
  ⟨{ ready with queue := [{ op := 0b000000, args := { rate := 1 } }] }, { op := 0b000000, args := { rate := 1 } }, [],
    .configure 1, by decide⟩

theorem witness_StepRunsTheDecodedInstruction_perform :
    ∃ (s : State) (w : OpWord) (i : Instr), decode w = .ok i ∧ i.wellFormed = true ∧ s.pos = .perform w ∧
      s.port = none := ⟨{ ready with pos := .perform { op := 0b100100 } }, { op := 0b100100 }, .readBit, by decide⟩

theorem witness_StepRunsTheDecodedInstruction_resume :
    ∃ (s : State) (i : Instr) (todo : List Micro), s.pos = .running i todo ∧ s.port = none :=
  ⟨{ ready with pos := .running .readBit [.sample] }, .readBit, [.sample], by decide⟩

theorem witness_SequencerStepPollsThenActs :
    (∃ (s : State) (rs : List PollAnswer), s.seqState = .sendStop ∧ s.port = none ∧ s.pos = .idle ∧
      s.env.poll = .fail e0 :: rs) ∧
    ∃ (s : State) (rs : List PollAnswer), s.seqState ≠ .done ∧ ¬(s.seqState = .sendStop ∨ s.seqState = .busError) ∧
      s.port = none ∧ s.pos = .polling ∧ s.env.poll = .fail e0 :: rs :=
  ⟨⟨answers [] [] [.fail e0] (running .sendStop 1 1), [], by decide⟩,
    ⟨answers [] [] [.fail e0] { running .start 0 0 with pos := .polling }, [], by decide⟩⟩

theorem witness_SequencerStepPollsThenActs_ok :
    ∃ (s : State) (rs : List PollAnswer), s.seqState ≠ .done ∧ s.port = none ∧ s.pos = .idle ∧ s.env.poll = .ok :: rs :=
  ⟨answers [] [] [.ok] (running .start 0 0), [], by decide⟩

/-- With no stretched poll before it and with one, at the loop's head and where a poll is waited for, in each class. -/
theorem witness_AbortEndsTheOperation :
    (∃ (s : State) (i : Instr) (ms : List Micro), s.port = none ∧ s.pos = .running i (.stretch :: ms) ∧
      s.env.scl = List.replicate 0 false ++ false :: [] ∧ s.env.poll = pollsOk 0 ++ .fail e0 :: [] ∧
      i.opClass = .seq) ∧
    (∃ (s : State) (i : Instr) (ms : List Micro), s.port = none ∧ s.pos = .running i (.stretch :: ms) ∧
      s.env.scl = List.replicate 1 false ++ false :: [] ∧ s.env.poll = pollsOk 1 ++ .fail e0 :: [] ∧
      i.opClass = .eng) ∧
    (∃ (s : State) (i : Instr) (ms : List Micro), s.port = none ∧ s.pos = .running i (.stretchPoll :: ms) ∧
      s.env.scl = List.replicate 0 false ++ [] ∧ s.env.poll = pollsOk 0 ++ .fail e0 :: [] ∧ i.opClass = .seq) ∧
    ∃ (s : State) (i : Instr) (ms : List Micro), s.port = none ∧ s.pos = .running i (.stretchPoll :: ms) ∧
      s.env.scl = List.replicate 1 false ++ [] ∧ s.env.poll = pollsOk 1 ++ .fail e0 :: [] ∧ i.opClass = .eng :=
  ⟨⟨answers [false] [] [.fail e0] { running .write 0 0 with pos := .running .stWrite [.stretch] }, .stWrite, [],
      by decide⟩,
    ⟨answers [false, false] [] [.ok, .fail e0] { ready with pos := .running (.writeBit true) [.stretch] },
      .writeBit true, [], by decide⟩,
    ⟨answers [] [] [.fail e0] { running .write 0 0 with pos := .running .stWrite [.stretchPoll] }, .stWrite, [],
      by decide⟩,
    ⟨answers [false] [] [.ok, .fail e0] { ready with pos := .running (.writeBit true) [.stretchPoll] },
      .writeBit true, [], by decide⟩⟩

theorem witness_ClockStretchLoopGoesOn_head :
    (∃ (s : State) (i : Instr) (ms : List Micro) (rs : List PollAnswer), s.port = none ∧
      s.pos = .running i (.stretch :: ms) ∧ s.env.scl = [false] ∧ s.env.poll = .ok :: rs) ∧
    (∃ (s : State) (i : Instr) (ms : List Micro), s.port = none ∧ s.pos = .running i (.stretch :: ms) ∧
      s.env.scl = false :: [] ∧ s.env.poll = []) ∧
    ∃ (s : State) (i : Instr) (ms : List Micro), s.port = none ∧ s.pos = .running i (.stretch :: ms) ∧
      s.env.scl = true :: [] :=
  ⟨⟨answers [false] [] [.ok] { ready with pos := .running (.writeBit true) [.stretch] }, .writeBit true, [], [],
      by decide⟩,
    ⟨answers [false] [] [] { ready with pos := .running (.writeBit true) [.stretch] }, .writeBit true, [], by decide⟩,
    ⟨answers [true] [] [] { ready with pos := .running (.writeBit true) [.stretch] }, .writeBit true, [], by decide⟩⟩

theorem witness_ClockStretchLoopGoesOn_poll :
    ∃ (s : State) (i : Instr) (ms : List Micro) (rs : List PollAnswer), s.port = none ∧
      s.pos = .running i (.stretchPoll :: ms) ∧ s.env.poll = .ok :: rs ∧ s.env.scl = [] :=
  ⟨answers [] [] [.ok] { ready with pos := .running (.writeBit true) [.stretchPoll] }, .writeBit true, [], [],
    by decide⟩

/-- V204's loop, one answer at a time: `SCL?0`, and then `T!ok` leads back to `PinGet(SCL)` (R152). -/
theorem test_stretch_one_answer_at_a_time :
    after (fun t => (t.trace, t.pos))
      (step (answers [false] [] [] { ready with pos := .running (.writeBit false) [.stretch, .delayHigh] })) =
      some ([.get .scl false], .running (.writeBit false) [.stretchPoll, .delayHigh]) ∧
    after (fun t => (t.trace, t.pos))
      (step (answers [] [] [.ok] { ready with pos := .running (.writeBit false) [.stretchPoll, .delayHigh] })) =
      some ([.poll .ok], .running (.writeBit false) [.stretch, .delayHigh]) := by decide

/-- The start reading, and the loop just short of its deadline and at it (R131). -/
theorem witness_DelayLoopGoesOn :
    (∃ (s : State) (i : Instr) (ms : List Micro), s.port = none ∧ s.pos = .running i (.delayStart 4 :: ms) ∧
      s.env.up = 20 :: [] ∧ s.env.lastUp ≤ 20) ∧
    (∃ (s : State) (i : Instr) (ms : List Micro), s.port = none ∧ s.pos = .running i (.delayLoop 4 20 :: ms) ∧
      s.env.up = 23 :: [] ∧ s.env.lastUp ≤ 23 ∧ (23 : Tick) - 20 < 4) ∧
    ∃ (s : State) (i : Instr) (ms : List Micro), s.port = none ∧ s.pos = .running i (.delayLoop 4 20 :: ms) ∧
      s.env.up = 24 :: [] ∧ s.env.lastUp ≤ 24 ∧ (4 : Tick) ≤ 24 - 20 :=
  ⟨⟨clocked [20] { ready with pos := .running (.delay 4) [.delayStart 4] }, .delay 4, [], by decide⟩,
    ⟨clocked [23] { ready with pos := .running (.delay 4) [.delayLoop 4 20] }, .delay 4, [], by decide⟩,
    ⟨clocked [24] { ready with pos := .running (.delay 4) [.delayLoop 4 20] }, .delay 4, [], by decide⟩⟩

/-- V35 and V31. -/
theorem witness_DelayReadsUntilTheDeadline :
    (∃ s : State, s.env.up = 20 :: ([23, 23, 23] ++ 24 :: []) ∧
      (s.env.lastUp :: 20 :: [23, 23, 23] ++ [24]).Pairwise (· ≤ ·) ∧ (∀ x ∈ [(23 : Tick), 23, 23], x - 20 < 4) ∧
      (4 : Tick) ≤ 24 - 20) ∧
    ∃ s : State, s.env.up = 7 :: ([] ++ 7 :: []) ∧ (s.env.lastUp :: 7 :: [] ++ [7]).Pairwise (· ≤ ·) ∧
      (0 : Tick) ≤ 7 - 7 :=
  ⟨⟨clocked [20, 23, 23, 23, 24] ready, rfl, by simp [clocked], by simp, by simp⟩,
    ⟨clocked [7, 7] ready, by decide⟩⟩

theorem witness_SendStartAndStop :
    ∃ s : State, clockServes [s.highBudget, s.highBudget, s.lowBudget] s.env.up s.env.lastUp = true ∧
      clockServes [s.highBudget, s.highBudget] s.env.up s.env.lastUp = true :=
  ⟨answers [] [] [] ready, by decide⟩

/-- V202, V204 and V206, V207. -/
theorem witness_WriteBitWaitsForSclThenHolds :
    (∀ k ∈ [0, 2], ∃ (s : State) (vs : List Bit) (rs : List PollAnswer),
      s.env.scl = List.replicate k false ++ true :: vs ∧ s.env.poll = pollsOk k ++ rs ∧
      clockServesCells 1 s = true) ∧
    ∀ k ∈ [0, 1], ∃ (s : State) (vs : List Bit) (rs : List PollAnswer),
      s.env.scl = List.replicate k false ++ false :: vs ∧ s.env.poll = pollsOk k ++ .fail e0 :: rs := by
  refine ⟨?_, ?_⟩ <;> simp only [List.mem_cons, List.not_mem_nil, or_false, forall_eq_or_imp, forall_eq]
  · exact ⟨⟨answers [true] [] [] ready, [], [], by decide⟩,
      ⟨answers [false, false, true] [] [.ok, .ok] ready, [], [], by decide⟩⟩
  · exact ⟨⟨answers [false] [] [.fail e0] ready, [], [], by decide⟩,
      ⟨answers [false, false] [] [.ok, .fail e0] ready, [], [], by decide⟩⟩

theorem witness_ReadBitSamplesAfterTheHighHold :
    ∃ (s : State) (b : Bit) (bs : List Bit), s.env.sda = b :: bs ∧ clockServesCells 1 s = true :=
  ⟨answers [] [true] [] ready, true, [], by decide⟩

/-- V43; also for WRITE_ADDRESS, and with one stretched poll in the last cell. -/
theorem witness_WriteByte :
    ∃ (s : State) (ks : List Nat) (vs bs : List Bit) (rs : List PollAnswer) (ack : Bit), ks.length = 8 ∧
      s.env.scl = sclAnswers ks ++ vs ∧ s.env.poll = pollsOk ks.sum ++ rs ∧ s.env.sda = ack :: bs ∧
      clockServesCells 9 s = true :=
  ⟨swift (high 7 ++ [false, true]) [true] [.ok] ready, [0, 0, 0, 0, 0, 0, 0, 1], [], [], [], true, by decide⟩

/-- The abort clause in the first cell and in the last. -/
theorem witness_WriteByte_aborts :
    ∀ n ∈ [0, 7], ∃ (s : State) (ks : List Nat) (vs : List Bit) (rs : List PollAnswer), ks.length = n ∧
      s.env.scl = sclAnswers ks ++ (List.replicate 0 false ++ false :: vs) ∧
      s.env.poll = pollsOk ks.sum ++ (pollsOk 0 ++ .fail e0 :: rs) ∧ clockServesCells ks.length s = true := by
  simp only [List.mem_cons, List.not_mem_nil, or_false, forall_eq_or_imp, forall_eq]
  exact ⟨⟨swift [false] [] [.fail e0] ready, [], [], [], by decide⟩,
    ⟨swift (high 7 ++ [false]) [] [.fail e0] ready, List.replicate 7 0, [], [], by decide⟩⟩

theorem witness_ReadByteAssemblesMsbFirst :
    ∃ (s : State) (bs : List Bit), s.env.sda = wireBits 0xA5 ++ bs ∧ clockServesCells 8 s = true :=
  ⟨swift [] (wireBits 0xA5) [] ready, [], by decide⟩

/-- WRITE: an empty buffer (V49b) and two acknowledged bytes. -/
theorem witness_Write_acknowledged :
    (∃ (s : State) (vs bs : List Bit) (rs : List PollAnswer), (0 : Nat) = ([] : List Byte).length ∧
      s.env.scl = sclAnswers [] ++ vs ∧ s.env.poll = pollsOk 0 ++ rs ∧ s.env.sda = List.replicate 0 false ++ bs ∧
      clockServesCells (9 * 0) s = true) ∧
    ∃ (s : State) (kss : List (List Nat)), (2 : Nat) = [(1 : Byte), 2].length ∧ kss.length = 2 ∧
      (∀ ks ∈ kss, ks.length = 8) ∧ s.env.scl = sclAnswers kss.flatten ++ [] ∧
      s.env.poll = pollsOk kss.flatten.sum ++ [] ∧ s.env.sda = List.replicate 2 false ++ [] ∧
      clockServesCells (9 * 2) s = true :=
  ⟨⟨ready, [], [], [], by decide⟩,
    ⟨swift (high 16) [false, false] [] ready, [List.replicate 8 0, List.replicate 8 0], by decide⟩⟩

/-- WRITE: V49d, the only byte not acknowledged, and V49c. -/
theorem witness_Write_not_acknowledged :
    (∃ (s : State), (1 : Nat) = ([] ++ (0x01 : Byte) :: []).length ∧
      s.env.scl = sclAnswers ([].flatten ++ List.replicate 8 0) ++ [] ∧
      s.env.poll = pollsOk ([].flatten ++ List.replicate 8 0).sum ++ [] ∧
      s.env.sda = List.replicate 0 false ++ true :: [] ∧ clockServesCells (9 * 1) s = true) ∧
    ∃ (s : State), (3 : Nat) = ([(0x01 : Byte)] ++ 0x02 :: [0x03]).length ∧
      s.env.scl = sclAnswers ([List.replicate 8 0].flatten ++ List.replicate 8 0) ++ [] ∧
      s.env.poll = pollsOk ([List.replicate 8 0].flatten ++ List.replicate 8 0).sum ++ [] ∧
      s.env.sda = List.replicate 1 false ++ true :: [] ∧ clockServesCells (9 * 2) s = true :=
  ⟨⟨swift (high 8) [true] [] ready, by decide⟩, ⟨swift (high 16) [false, true] [] ready, by decide⟩⟩

/-- READ: no byte (V52), and two. -/
theorem witness_ReadAcksAllButTheLast :
    (∃ (s : State), (0 : Nat) = ([] : List Byte).length ∧ s.env.scl = sclAnswers [] ++ [] ∧
      s.env.poll = pollsOk 0 ++ [] ∧ s.env.sda = ([] : List Byte).flatMap wireBits ++ [] ∧
      clockServesCells (9 * 0) s = true) ∧
    ∃ (s : State), (2 : Nat) = [(0xDE : Byte), 0xAD].length ∧ s.env.scl = sclAnswers [0, 0] ++ [] ∧
      s.env.poll = pollsOk 0 ++ [] ∧ s.env.sda = [(0xDE : Byte), 0xAD].flatMap wireBits ++ [] ∧
      clockServesCells (9 * 2) s = true :=
  ⟨⟨ready, by decide⟩, ⟨swift (high 2) (wireBits 0xDE ++ wireBits 0xAD) [] ready, by decide⟩⟩

/-- READ: an abort in the acknowledge cell of the first byte of two (V53), and of the only one. -/
theorem witness_Read_aborts :
    (∃ (s : State), ([] : List Byte).length < (2 : Nat) ∧
      s.env.scl = sclAnswers [] ++ (List.replicate 0 false ++ false :: []) ∧
      s.env.poll = pollsOk 0 ++ (pollsOk 0 ++ .fail e0 :: []) ∧
      s.env.sda = ([] ++ [(0x11 : Byte)]).flatMap wireBits ++ [] ∧ clockServesCells (9 * 0 + 8) s = true) ∧
    ∃ (s : State), [(0x11 : Byte)].length < (2 : Nat) ∧
      s.env.scl = sclAnswers [0] ++ (List.replicate 0 false ++ false :: []) ∧
      s.env.poll = pollsOk 0 ++ (pollsOk 0 ++ .fail e0 :: []) ∧
      s.env.sda = ([(0x11 : Byte)] ++ [0x22]).flatMap wireBits ++ [] ∧ clockServesCells (9 * 1 + 8) s = true :=
  ⟨⟨swift [false] (wireBits 0x11) [.fail e0] ready, by decide⟩,
    ⟨swift [true, false] (wireBits 0x11 ++ wireBits 0x22) [.fail e0] ready, by decide⟩⟩

/-- WRITE_BYTE ends in each of its three ways: acknowledged, not acknowledged, aborted (also for WRITE_ADDRESS and the states
write_address and write). -/
theorem witness_WriteByte_ends :
    (∃ s t, exec (.writeByte 0x78) s = .next t ∧ t.pos = .idle ∧ t.ret = some (.acknowledged true)) ∧
    (∃ s t, exec (.writeByte 0x78) s = .next t ∧ t.pos = .idle ∧ t.ret = some (.acknowledged false)) ∧
    ∃ s t, exec (.writeByte 0x78) s = .next t ∧ t.pos = .idle ∧ t.ret = some (.abort e0) ∧ s.wcur < s.wlen ∧
      Memory.read s.wbuf s.wcur = some 0x10 ∧
      (0x78 : Byte) = s.addr ++ (if s.wcur < s.wlen then 0#1 else 1#1) :=
  ⟨⟨swift (high 8) [false] [] ready, _, rfl, by decide⟩, ⟨swift (high 8) [true] [] ready, _, rfl, by decide⟩,
    ⟨swift [false] [] [.fail e0] (running .writeAddress 0 0), _, rfl, by decide⟩⟩

/-- A WRITE of one byte, then WRITE_BYTE of the next. -/
theorem witness_WriteIsALoopOfWriteByte :
    ∃ s t u, exec (.write 1 [0x01]) s = .next t ∧ t.pos = .idle ∧ t.ret = some .ok ∧
      exec (.writeByte 0x02) t = .next u ∧ u.pos = .idle ∧ u.ret = some (.acknowledged false) :=
  ⟨swift (high 16) [false, true] [] ready, _, _, rfl, rfl, by decide, rfl, rfl, by decide⟩

theorem witness_EngineOperationsAlwaysAnswer :
    ∃ i j : Instr, i.opClass = .eng ∧ i.wellFormed = true ∧ j.opClass = .cal ∧ j.wellFormed = true :=
  ⟨.write 1 [0xAB], .calUptime, by decide⟩

theorem witness_CalUptimeAndCalPin :
    ∃ s : State, s.env.up = 110 :: 118 :: [] ∧ s.env.lastUp ≤ 110 ∧ (110 : Tick) ≤ 118 :=
  ⟨clocked [110, 118] ready, by decide⟩

/-- write_address with WBUF not exhausted and with WBUF exhausted. -/
theorem witness_WriteAddressState :
    (∃ s : State, s.wcur < s.wlen ∧ s.env.scl = sclAnswers (List.replicate 8 0) ++ [] ∧
      s.env.poll = pollsOk (List.replicate 8 0).sum ++ [] ∧ s.env.sda = false :: [] ∧ clockServesCells 9 s = true) ∧
    ∃ s : State, ¬ s.wcur < s.wlen ∧ s.env.scl = sclAnswers (List.replicate 8 0) ++ [] ∧
      s.env.poll = pollsOk (List.replicate 8 0).sum ++ [] ∧ s.env.sda = true :: [] ∧ clockServesCells 9 s = true :=
  ⟨⟨swift (high 8) [false] [] (running .writeAddress 0 0), by decide⟩,
    ⟨swift (high 8) [true] [] (running .writeAddress 1 0), by decide⟩⟩

theorem witness_WriteState :
    ∃ s : State, s.wcur < s.wlen ∧ Memory.read s.wbuf s.wcur = some 0x10 ∧
      s.env.scl = sclAnswers (List.replicate 8 0) ++ [] ∧ s.env.poll = pollsOk (List.replicate 8 0).sum ++ [] ∧
      s.env.sda = true :: [] ∧ clockServesCells 9 s = true :=
  ⟨swift (high 8) [true] [] (running .write 0 0), by decide⟩

theorem witness_ReadState :
    ∃ s : State, s.rcur < s.rlen ∧ s.env.sda = wireBits 0x5A ++ [] ∧ s.env.scl = List.replicate 1 false ++ true :: [] ∧
      s.env.poll = pollsOk 1 ++ [] ∧ clockServesCells 9 s = true :=
  ⟨swift [false, true] (wireBits 0x5A) [.ok] (running .read 1 0), by decide⟩

/-- V98's abort. -/
theorem witness_ReadState_aborts :
    ∃ s : State, s.rcur < s.rlen ∧ s.env.sda = wireBits 0xDE ++ [] ∧ s.env.scl = List.replicate 0 false ++ false :: [] ∧
      s.env.poll = pollsOk 0 ++ .fail e0 :: [] ∧ clockServesCells 8 s = true :=
  ⟨swift [false] (wireBits 0xDE) [.fail e0] { running .read 1 0 with rlen := 2 }, by decide⟩

/-- Both indices at their ends. -/
theorem witness_OutOfRangeBufferAccessFaults :
    ∃ s : State, ¬ s.wcur < s.wlen ∧ ¬ s.rcur < s.rlen ∧ s.env.sda = wireBits 0x5A ++ [] ∧
      clockServesCells 8 s = true :=
  ⟨swift [] (wireBits 0x5A) [] (running .read 1 1), by decide⟩

/-- The fault itself. -/
theorem test_out_of_range :
    faulted (exec .stWrite (running .write 1 0)) = some .wbufRange ∧
    faulted (exec .stRead (swift [] (wireBits 0x5A) [] (running .read 1 1))) = some .rbufRange := by decide

theorem witness_DoneReturnsTheError :
    (∃ s : State, s.seqState = .done ∧ s.inTxn = true ∧ s.pos = .idle ∧ s.port = none) ∧
    ∃ s t : State, s.seqState = .done ∧ s.inTxn = false ∧ s.pos = .idle ∧ step s = .next t ∧ t.seqState = .start :=
  ⟨⟨running .done 1 1, by decide⟩,
    ⟨{ ready with port := some (encode (.transaction 0x3C 0 [] 0)) }, _, rfl, rfl, rfl, rfl, rfl⟩⟩

/-- SEND_START and SEND_STOP complete, from each of the latch values of the statement. -/
theorem witness_StartAndStopShowTheirSymbols :
    (∃ s t, exec .sendStart s = .next t ∧ t.pos = .idle ∧ s.sclOut = false) ∧
    (∃ s t, exec .sendStart s = .next t ∧ t.pos = .idle ∧ s.sdaOut = true) ∧
    (∃ s t, exec .sendStart s = .next t ∧ t.pos = .idle ∧ s.sclOut = true ∧ s.sdaOut = false) ∧
    (∃ s t, exec .sendStop s = .next t ∧ t.pos = .idle ∧ s.sclOut = false) ∧
    (∃ s t, exec .sendStop s = .next t ∧ t.pos = .idle ∧ s.sdaOut = false) ∧
    ∃ s t, exec .sendStop s = .next t ∧ t.pos = .idle ∧ s.sclOut = true ∧ s.sdaOut = true :=
  ⟨⟨answers [] [] [] { ready with sclOut := false }, _, rfl, by decide⟩, ⟨answers [] [] [] ready, _, rfl, by decide⟩,
    ⟨answers [] [] [] { ready with sdaOut := false }, _, rfl, by decide⟩,
    ⟨answers [] [] [] { ready with sclOut := false }, _, rfl, by decide⟩,
    ⟨answers [] [] [] { ready with sdaOut := false }, _, rfl, by decide⟩, ⟨answers [] [] [] ready, _, rfl, by decide⟩⟩

theorem witness_OnlySentBytesWriteAckbit :
    ∃ s t, exec (.writeByte 0xA5) s = .next t ∧ t.ackbit ≠ s.ackbit :=
  ⟨swift (high 8) [true] [] ready, _, rfl, by decide⟩

theorem witness_OnlyConfigureWritesTheTimingRegisters :
    ∃ s t, exec .calRestore s = .next t ∧ ∀ rate, Instr.calRestore ≠ .configure rate :=
  ⟨ready, _, rfl, by simp⟩

/-- A step, from a state that is configured, with canonical memory, budgets within ticks and a legal `ERR`. -/
theorem witness_step_invariants :
    ∃ s t, step s = .next t ∧ s.configured = true ∧ MemoryCanonical s ∧ BudgetsWithinTicks s ∧
      s.err.legalErr = true :=
  ⟨answers [] [] [.ok] (running .start 0 0), _, rfl, by
    simp only [MemoryCanonical, BudgetsWithinTicks]; decide⟩

theorem witness_FirstErrorIsKept : ∃ s t, step s = .next t ∧ s.err ≠ .none :=
  ⟨answers [] [] [.fail e0] { running .busError 0 0 with err := .ioError }, _, rfl, by decide⟩

/-- A state inside `write`, whose cursor is still to advance. -/
theorem witness_StepKeepsCursorsInRange : ∃ s t, step s = .next t ∧ CursorsInRange s :=
  ⟨swift [] [] [] { running .write 0 0 with ackbit := false, pos := .running .stWrite [.latchAck, .afterWrite] }, _, rfl,
    by simp only [CursorsInRange, swift, running, ready]; decide⟩

/-- The run invariant between operations and inside one, and at the return of a transaction. -/
theorem witness_RunInv :
    (∃ s t, step s = .next t ∧ RunInv s ∧ s.seqState = .start) ∧
    (∃ s t, step s = .next t ∧ RunInv s ∧ s.pos = .running .stSendStop [.set .sda true, .goto .done]) ∧
    ∃ s t, step s = .next t ∧ RunInv s ∧ s.inTxn = true ∧ t.inTxn = false := by
  refine ⟨⟨answers [] [] [.ok] (running .start 0 0), _, rfl, ?_, rfl⟩,
    ⟨{ running .sendStop 1 1 with sdaOut := false, pos := .running .stSendStop [.set .sda true, .goto .done] }, _, rfl, ?_,
      rfl⟩,
    ⟨running .done 1 1, _, rfl, ?_, rfl, rfl⟩⟩
  · refine ⟨by decide, by decide, fun _ => ⟨rfl, fun k hk => ?_⟩, trivial⟩
    obtain rfl : k = 0 := by change k < 1 at hk; omega
    rfl
  · refine ⟨by decide, by decide, fun _ => ⟨rfl, fun k hk => ?_⟩, rfl, ⟨rfl, rfl⟩, [.set .sda true], rfl, rfl, rfl⟩
    obtain rfl : k = 0 := by change k < 1 at hk; omega
    rfl
  · exact ⟨by decide, by decide, fun h => absurd rfl h, rfl, rfl, fun _ _ => ⟨rfl, rfl⟩⟩

theorem witness_WriteAddressStateEqualsTheComposite :
    ∃ s t, exec .stWriteAddress s = .next t ∧ t.pos = .idle :=
  ⟨swift (high 8) [true] [] (running .writeAddress 0 0), _, rfl, by decide⟩

theorem witness_HostSeesRbufOnlyAfterSuccess :
    (∃ t, exec (.transaction 0x3C 1 [0xAB] 1) ready = .next t) ∧
    (∃ s t : State, s.inTxn = true ∧ exec .stDone s = .next t ∧ s.err = .none) ∧
    (∃ s t : State, s.inTxn = true ∧ exec .stDone s = .next t ∧ s.err ≠ .none ∧ 0 < s.rlen) ∧
    ∃ t, exec (.configure 1000001) ready = .next t :=
  ⟨⟨_, rfl⟩, ⟨running .done 1 1, _, rfl, rfl, rfl⟩, ⟨{ running .done 1 1 with err := .ioError }, _, rfl, rfl, by decide⟩,
    ⟨_, rfl⟩⟩

/-- A step inside a transaction. -/
theorem witness_HostSeesNothingDuringATransaction :
    ∃ s t : State, step s = .next t ∧ s.inTxn = true ∧ s.txnEnd = none ∧ t.inTxn = true :=
  ⟨answers [] [] [.ok] (running .start 0 0), _, rfl, rfl, rfl, rfl⟩

/-- A rejected CONFIGURE after a successful TRANSACTION leaves the host's byte (R64). -/
theorem test_host_view_kept :
    after (fun t => (t.reply, hostReadRbuf t 0))
      (exec (.configure 1000001) (returnToHost { running .done 1 1 with rbuf := [(0, 0x5A)] })) =
    some (some .unsupportedOperation, some 0x5A) := by decide

end Sys2Proof.Tests
end

section
/-!
PROOFS. Codes and decoding (R96, R98, R106): what each class's decoder accepts, of which class, and what it rejects; from
these the two statements on the class bits, the rejected words and the codes of the states.
-/

namespace Sys2Proof

open Sys2Proof.Machine

/-! ### Each class's decoder: the class of what it accepts -/

theorem decodeHost_opClass {n : Nat} {a : OpArgs} {i : Instr} (h : decodeHost n a = .ok i) : i.opClass = .host := by
  unfold decodeHost at h
  split at h <;> cases h <;> rfl

theorem decodeSeq_opClass {n : Nat} {i : Instr} (h : decodeSeq n = .ok i) : i.opClass = .seq := by
  unfold decodeSeq at h
  split at h <;> cases h <;> rfl

theorem decodeEng_opClass {n : Nat} {a : OpArgs} {i : Instr} (h : decodeEng n a = .ok i) : i.opClass = .eng := by
  unfold decodeEng at h
  split at h <;> cases h <;> rfl

theorem decodeCal_opClass {n : Nat} {a : OpArgs} {i : Instr} (h : decodeCal n a = .ok i) : i.opClass = .cal := by
  unfold decodeCal at h
  split at h <;> cases h <;> rfl

/-! ### Each class's decoder: the indices it rejects -/

theorem decodeHost_error_iff (a : OpArgs) : ∀ n, (∃ e, decodeHost n a = .error e) ↔ 2 ≤ n
  | 0 | 1 => by simp [decodeHost]
  | n + 2 => by simp [decodeHost]

theorem decodeSeq_error_iff : ∀ n, (∃ e, decodeSeq n = .error e) ↔ 8 ≤ n
  | 0 | 1 | 2 | 3 | 4 | 5 | 6 | 7 => by simp [decodeSeq]
  | n + 8 => by simp [decodeSeq]

theorem decodeEng_error_iff (a : OpArgs) : ∀ n, (∃ e, decodeEng n a = .error e) ↔ 10 ≤ n
  | 0 | 1 | 2 | 3 | 4 | 5 | 6 | 7 | 8 | 9 => by simp [decodeEng]
  | n + 10 => by simp [decodeEng]

theorem decodeCal_error_iff (a : OpArgs) : ∀ n, (∃ e, decodeCal n a = .error e) ↔ 4 ≤ n
  | 0 | 1 | 2 | 3 => by simp [decodeCal]
  | n + 4 => by simp [decodeCal]

/-! ### The decoder -/

/-- The class of a decoded operation is what stands above the index in the byte lane (R98). -/
theorem decode_opClass {w : OpWord} {i : Instr} (h : decode w = .ok i) :
    i.opClass.code.toNat = w.op.toNat / 16 := by
  rw [decode_eq] at h
  split at h
  next hclass => rw [hclass, decodeHost_opClass h]; rfl
  next hclass => rw [hclass, decodeSeq_opClass h]; rfl
  next hclass => rw [hclass, decodeEng_opClass h]; rfl
  next hclass => rw [hclass, decodeCal_opClass h]; rfl
  next => cases h

/-- A word is rejected when its index is past its class's last one, or its code has more than 6 bits (R98, R106). -/
theorem decode_error_iff (w : OpWord) : (∃ e, decode w = .error e) ↔
    ((2 ≤ w.op.toNat ∧ w.op.toNat ≤ 15) ∨ (24 ≤ w.op.toNat ∧ w.op.toNat ≤ 31) ∨
      (42 ≤ w.op.toNat ∧ w.op.toNat ≤ 47) ∨ 52 ≤ w.op.toNat) := by
  match hclass : w.op.toNat / 16 with
  | 0 => simp only [decode_eq, hclass, decodeHost_error_iff]; omega
  | 1 => simp only [decode_eq, hclass, decodeSeq_error_iff]; omega
  | 2 => simp only [decode_eq, hclass, decodeEng_error_iff]; omega
  | 3 => simp only [decode_eq, hclass, decodeCal_error_iff]; omega
  | n + 4 => exact iff_of_true ⟨_, decode_notSixBits w (by omega)⟩ (by omega)

/-- Settles O2: the class by `decode_opClass`, read as bits 5:4; the rejected words by `decode_error_iff`. -/
theorem classIsReadFromTheCodeAndTheRestIsInvalid :
    Obligations.ClassIsReadFromTheCodeAndTheRestIsInvalid := by
  refine ⟨fun w i h => ?_, decode_error_iff⟩
  apply BitVec.eq_of_toNat_eq
  have hclass := decode_opClass h
  have hlt := i.opClass.code.isLt
  rw [BitVec.extractLsb'_toNat, Nat.shiftRight_eq_div_pow]
  omega

/-! ### The codes of the states -/

theorem SeqState.ofCode_code (st : SeqState) : SeqState.ofCode st.code = st := by cases st <;> rfl

/-- The SEQ index that is a state's code is the operation `STATE` selects (R96, R98). -/
theorem decodeSeq_code (st : SeqState) : decodeSeq st.code.toNat = .ok st.instr := by cases st <;> rfl

/-- The word `01_0` followed by three bits is of class SEQ, with those bits as its index (R98). -/
theorem decode_seqWord (c : BitVec 3) : decode { op := 0b00010000 + c.setWidth 8 } = decodeSeq c.toNat := by
  have hop : (0b00010000 + c.setWidth 8 : Byte).toNat = 16 + c.toNat := by
    have := c.isLt
    simp
    omega
  have hclass : (16 + c.toNat) / 16 = 1 := by omega
  have hindex : (16 + c.toNat) % 16 = c.toNat := by omega
  simp only [decode_eq, hop, hclass, hindex]

/-- Settles O4: the codes by evaluation, their inverse by `SeqState.ofCode_code`, and the SEQ word of a code by
`decode_seqWord` and `decodeSeq_code`. -/
theorem stateCodesSelectTheStateOperations : Obligations.StateCodesSelectTheStateOperations :=
  ⟨rfl, fun st => ⟨SeqState.ofCode_code st, (decode_seqWord st.code).trans (decodeSeq_code st)⟩⟩

end Sys2Proof
end

section
/-!
PROOFS. CONFIGURE, the calibrator and DELAY (R120 to R133): the tick counts of a rate; what one clock read does; the
calibrator's operations, each as the state it leads to; CONFIGURE as measuring followed by the commit, where measuring waits for
the clock or passes; DELAY's loop run to its deadline.
-/

namespace Sys2Proof.Machine

/-! ### Tick counts -/

/-- A count that fits `TICK_W` bits is held as it is (R133). -/
theorem tickOfNat_toNat {n : Nat} (h : n < 2 ^ 64) : (tickOfNat n).toNat = n := by
  rw [tickOfNat, if_pos h, BitVec.toNat_ofNat, Nat.mod_eq_of_lt h]

/-- A part of a bus clock's period is no longer than `F_CLK` (R133). -/
theorem ticksOf_le {part den rate : Nat} (fClk : Nat) (hrate : 0 < rate) (hpart : part ≤ den) :
    ticksOf fClk part den rate ≤ fClk :=
  Nat.div_le_of_le_mul <| calc
    fClk * part ≤ fClk * (den * rate) := Nat.mul_le_mul_left _ (hpart.trans (Nat.le_mul_of_pos_right _ hrate))
    _ = den * rate * fClk := Nat.mul_comm ..

theorem highTicksFor_toNat {s : State} {rate : Nat} (hrate : 0 < rate) (hclk : s.fClk < 2 ^ 64)
    (hduty : s.dutyNum ≤ s.dutyDen) : (highTicksFor s rate).toNat = s.fClk * s.dutyNum / (s.dutyDen * rate) :=
  tickOfNat_toNat ((ticksOf_le s.fClk hrate hduty).trans_lt hclk)

theorem lowTicksFor_toNat {s : State} {rate : Nat} (hrate : 0 < rate) (hclk : s.fClk < 2 ^ 64) :
    (lowTicksFor s rate).toNat = s.fClk * (s.dutyDen - s.dutyNum) / (s.dutyDen * rate) :=
  tickOfNat_toNat ((ticksOf_le s.fClk hrate (Nat.sub_le ..)).trans_lt hclk)

/-- Settles O10: the counts are floors of the two parts of `F_CLK × DUTY_DEN`, and two floors sum to the floor of the sum or to
one less. -/
theorem tickCountsAreWithinOneOfTheirExactValues : Obligations.TickCountsAreWithinOneOfTheirExactValues := by
  intro s rate hrate _ hclk hden hduty h l
  have hpos : 0 < s.dutyDen * rate := Nat.mul_pos hden hrate
  have hparts : s.fClk * s.dutyNum + s.fClk * (s.dutyDen - s.dutyNum) = s.dutyDen * s.fClk := by
    rw [← Nat.mul_add, Nat.add_sub_cancel' hduty, Nat.mul_comm]
  have hsum := Nat.add_div (a := s.fClk * s.dutyNum) (b := s.fClk * (s.dutyDen - s.dutyNum)) hpos
  rw [hparts, Nat.mul_div_mul_left _ _ hden] at hsum
  have hh : h = _ := highTicksFor_toNat hrate hclk hduty
  have hl : l = _ := lowTicksFor_toNat hrate hclk
  rw [hh, hl, hsum]
  refine ⟨Nat.div_mul_le_self .., Nat.lt_mul_of_div_lt (Nat.lt_succ_self _) hpos, Nat.div_mul_le_self ..,
    Nat.lt_mul_of_div_lt (Nat.lt_succ_self _) hpos, ?_⟩
  split
  · exact .inr rfl
  · exact .inl rfl

/-! ### Parts of a program -/

/-- A program that has been run through has been run through part by part. -/
theorem Passes.of_append {i : Instr} {ms ms' : List Micro} {s t : State} (h : Passes i (ms ++ ms') s t) :
    ∃ u, Passes i ms s u ∧ Passes i ms' u t := by
  induction ms generalizing s with
  | nil => exact ⟨s, rfl, h⟩
  | cons m ms ih =>
    obtain ⟨s1, hgo, htail⟩ := h
    obtain ⟨u, hms, hms'⟩ := ih htail
    exact ⟨u, .cons hgo hms, hms'⟩

/-! ### One clock read -/

/-- The state after a clock read answered `t`: `rest` are the answers left, `keep` is what the read does to the local
variables. -/
def afterUptime (keep : Tick → Locals → Locals) (t : Tick) (rest : List Tick) (s : State) : State :=
  { s with
    loc := keep t s.loc, env := { s.env with up := rest, lastUp := t }, trace := s.trace ++ [.uptime t] }

/-- An answer that obeys the clock's law is the one read (R40). -/
theorem uptimeInto_go {m : Micro} {keep : Tick → Locals → Locals} {s : State} {t : Tick} {rest : List Tick}
    (hup : s.env.up = t :: rest) (hlaw : s.env.lastUp ≤ t) : uptimeInto m keep s = .go (afterUptime keep t rest s) := by
  simp [uptimeInto, takeUptime, hup, clockAnswer_of_le hlaw, afterUptime, emit]

/-- A clock read waits in the state as it is, or reads some answer. -/
theorem uptimeInto_cases (m : Micro) (keep : Tick → Locals → Locals) (s : State) :
    uptimeInto m keep s = .wait m s ∨ ∃ t rest, uptimeInto m keep s = .go (afterUptime keep t rest s) := by
  unfold uptimeInto
  split
  next => exact .inl rfl
  next c s1 hread =>
    obtain ⟨u, us, -, -, rfl⟩ := takeUptime_some hread
    exact .inr ⟨c, us, rfl⟩

theorem uptimeInto_go_inv {m : Micro} {keep : Tick → Locals → Locals} {s s1 : State}
    (h : uptimeInto m keep s = .go s1) : ∃ t rest, s1 = afterUptime keep t rest s := by
  obtain hwait | ⟨t, rest, hgo⟩ := uptimeInto_cases m keep s
  · rw [hwait] at h
    cases h
  · rw [hgo] at h
    cases h
    exact ⟨t, rest, rfl⟩

/-! ### The calibrator's operations -/

/-- `t0` of CAL_UPTIME, `ta` of CAL_PIN. -/
def keepMark (t : Tick) (l : Locals) : Locals := { l with mark := t }

/-- `u`, CAL_UPTIME's difference. -/
def keepLap (t : Tick) (l : Locals) : Locals := { l with u := elapsed l.mark t }

theorem runMicro_markUptime (i : Instr) (s : State) :
    runMicro i .markUptime s = uptimeInto .markUptime keepMark s := rfl

theorem runMicro_lapUptime (i : Instr) (s : State) :
    runMicro i .lapUptime s = uptimeInto .lapUptime keepLap s := rfl

theorem runMicro_lapPin (i : Instr) (p : Pin) (s : State) :
    runMicro i (.lapPin p) s = uptimeInto (.lapPin p) (keepOverhead p) s := rfl

/-- The state after CAL_UPTIME's two reads (R125). -/
def afterCalUptime (t0 t1 : Tick) (rest : List Tick) (s : State) : State :=
  afterUptime keepLap t1 rest (afterUptime keepMark t0 (t1 :: rest) s)

/-- The state after CAL_PIN's read, pin set and read (R126). -/
def afterCalPin (p : Pin) (ta tb : Tick) (rest : List Tick) (s : State) : State :=
  afterUptime (keepOverhead p) tb rest (pinSet p false (afterUptime keepMark ta (tb :: rest) s))

/-- The state after CAL_RESTORE's two pin sets (R127). -/
def afterCalRestore (s : State) : State := pinSet .sda true (pinSet .scl true s)

@[simp] theorem pinSet_env (p : Pin) (b : Bit) (s : State) : (pinSet p b s).env = s.env := by cases p <;> rfl

theorem calUptime_passes {s : State} {t0 t1 : Tick} {rest : List Tick} (i : Instr)
    (hup : s.env.up = t0 :: t1 :: rest) (h0 : s.env.lastUp ≤ t0) (h1 : t0 ≤ t1) :
    Passes i calUptimeProgram s (afterCalUptime t0 t1 rest s) :=
  .cons ((runMicro_markUptime ..).trans (uptimeInto_go hup h0)) <|
    .cons ((runMicro_lapUptime ..).trans (uptimeInto_go rfl h1)) rfl

theorem calPin_passes {s : State} {ta tb : Tick} {rest : List Tick} (i : Instr) (p : Pin)
    (hup : s.env.up = ta :: tb :: rest) (ha : s.env.lastUp ≤ ta) (hb : ta ≤ tb) :
    Passes i (calPinProgram p) s (afterCalPin p ta tb rest s) :=
  .cons ((runMicro_markUptime ..).trans (uptimeInto_go hup ha)) <|
    .cons rfl <| .cons ((runMicro_lapPin ..).trans (uptimeInto_go (by simp [afterUptime]) (by simpa [afterUptime]))) rfl

theorem calRestore_passes (i : Instr) (s : State) : Passes i calRestoreProgram s (afterCalRestore s) :=
  .cons rfl (.cons rfl rfl)

/-! Whatever the clock answered, an operation that has been run through is in one of these states. -/

theorem calUptime_passes_inv {i : Instr} {s t : State} (h : Passes i calUptimeProgram s t) :
    ∃ t0 t1 rest, t = afterCalUptime t0 t1 rest s := by
  obtain ⟨_, h0, _, h1, rfl⟩ := h
  obtain ⟨t0, _, rfl⟩ := uptimeInto_go_inv (keep := keepMark) h0
  obtain ⟨t1, rest, rfl⟩ := uptimeInto_go_inv (keep := keepLap) h1
  exact ⟨t0, t1, rest, rfl⟩

theorem calPin_passes_inv {i : Instr} {p : Pin} {s t : State} (h : Passes i (calPinProgram p) s t) :
    ∃ ta tb rest, t = afterCalPin p ta tb rest s := by
  obtain ⟨_, ha, _, hset, _, hb, rfl⟩ := h
  obtain ⟨ta, _, rfl⟩ := uptimeInto_go_inv (keep := keepMark) ha
  cases hset
  obtain ⟨tb, rest, rfl⟩ := uptimeInto_go_inv (keep := keepOverhead p) hb
  exact ⟨ta, tb, rest, by cases p <;> rfl⟩

theorem calRestore_passes_inv {i : Instr} {s t : State} (h : Passes i calRestoreProgram s t) :
    t = afterCalRestore s := by
  obtain ⟨_, hscl, _, hsda, rfl⟩ := h
  cases hscl
  cases hsda
  rfl

/-- Settles O31, by `calUptime_passes`. -/
theorem calUptimeReturnsTheDifference : Obligations.CalUptimeReturnsTheDifference := by
  intro s t0 t1 rest hup h0 h1
  have hpass := calUptime_passes (s := { s with ret := none }) .calUptime hup h0 h1
  calc exec .calUptime s = .next (finish .calUptime (afterCalUptime t0 t1 rest { s with ret := none })) := hpass.finish
    _ = _ := by simp [finish, returned, afterCalUptime, afterUptime, keepLap, keepMark, elapsed]

/-- CAL_PIN on two answers of the clock (R126). -/
theorem exec_calPin {s : State} {ta tb : Tick} {rest : List Tick} (p : Pin) (u : Tick)
    (hup : s.env.up = ta :: tb :: rest) (ha : s.env.lastUp ≤ ta) (hb : ta ≤ tb) :
    exec (.calPin p u) s = .next (finish (.calPin p u)
      (afterCalPin p ta tb rest { s with ret := none, loc := { s.loc with u := u } })) :=
  (calPin_passes (s := { s with ret := none, loc := { s.loc with u := u } }) _ p hup ha hb).finish

/-- Settles O32, by `exec_calPin`; the overhead is `pinOverhead`, a saturating difference. -/
theorem calPinBracketsOnePinSet : Obligations.CalPinBracketsOnePinSet := by
  intro s u ta tb rest hup ha hb
  refine ⟨pinOverhead ta tb u, satSub_toNat .., ?_, ?_⟩
  · rw [exec_calPin .scl u hup ha hb]
    simp [finish, returned, afterCalPin, afterUptime, pinSet, emit, keepMark, keepOverhead]
  · rw [exec_calPin .sda u hup ha hb]
    simp [finish, returned, afterCalPin, afterUptime, pinSet, emit, keepMark, keepOverhead]

/-- Settles O33, by `calRestore_passes`. -/
theorem calRestoreReleasesBothPins : Obligations.CalRestoreReleasesBothPins := by
  intro s
  calc exec .calRestore s = .next (finish .calRestore (afterCalRestore { s with ret := none })) :=
      (calRestore_passes _ _).finish
    _ = _ := by simp [finish, returned, afterCalRestore, pinSet, emit]

/-- Settles O34: CAL_BUDGET's program is empty, and its results are `budget`, a saturating difference. -/
theorem calBudgetSubtractsTheWholeOverhead : Obligations.CalBudgetSubtractsTheWholeOverhead :=
  fun _ h l u cs cd => ⟨budget h u cs cd, budget l u cs cd, budget_toNat .., budget_toNat .., rfl⟩

/-! ### DELAY -/

/-- DELAY's loop on answers of which the first to reach the deadline is `c` (R131). -/
theorem delayFlow_ends {n start c : Tick} {cs rest : List Tick} {s : State} (hup : s.env.up = cs ++ c :: rest)
    (hlaw : (s.env.lastUp :: cs ++ [c]).Pairwise (· ≤ ·)) (hcs : ∀ x ∈ cs, x - start < n) (hc : n ≤ c - start) :
    delayFlow n start s = .go { s with
      env := { s.env with up := rest, lastUp := c }, trace := s.trace ++ (cs ++ [c]).map .uptime } := by
  have hspin := spin_ends n start cs rest c s.env.lastUp hlaw hcs hc
  simp only [delayFlow, hup, hspin, if_true, afterSpin]

/-- `Delay(n)` on a start reading `s0` and answers of which the first to reach the deadline is `c` (R131). -/
theorem delayWhole_ends {n s0 c : Tick} {cs rest : List Tick} {s : State} (hup : s.env.up = s0 :: (cs ++ c :: rest))
    (hlaw : (s.env.lastUp :: s0 :: cs ++ [c]).Pairwise (· ≤ ·)) (hcs : ∀ x ∈ cs, x - s0 < n) (hc : n ≤ c - s0) :
    delayWhole n s = .go { s with
      env := { s.env with up := rest, lastUp := c }
      trace := s.trace ++ [.delay n, .uptime s0] ++ cs.map .uptime ++ [.uptime c] } := by
  obtain ⟨hfirst, hlaw⟩ := List.pairwise_cons.mp hlaw
  have hs0 : clockAnswer s.env.lastUp s0 = s0 := clockAnswer_of_le (hfirst s0 (by simp))
  simp only [delayWhole, delayStartFlow, takeUptime, emit, hup, hs0]
  rw [delayFlow_ends rfl hlaw hcs hc]
  simp

/-- Settles O19, by `delayWhole_ends`. -/
theorem delayReadsUntilTheDeadline : Obligations.DelayReadsUntilTheDeadline := by
  intro s n s0 c cs rest hup hlaw hcs hc
  have hdelay : runMicro (.delay n) (.delay n) { s with ret := none } = _ := delayWhole_ends hup hlaw hcs hc
  exact runMicros_go [] hdelay

/-! ### CONFIGURE: its tests -/

/-- A rate above `F_CLK` fails before anything is measured (R121). -/
theorem exec_configure_unsupported {s : State} {rate : Nat} (hidle : s.isIdle = true) (h : s.fClk < rate) :
    exec (.configure rate) s = .next { s with reply := some .unsupportedOperation } := by
  have hne : rate ≠ 0 := Nat.ne_zero_of_lt h
  simp [exec, execConfigure, hidle, h, hne]

theorem exec_configure_zero {s : State} (hidle : s.isIdle = true) :
    exec (.configure 0) s = .refused .clockRateZero := by
  simp [exec, execConfigure, hidle]

/-- A rate up to `F_CLK` leads into the calibration (R120, R121). -/
theorem exec_configure_calibrates {s : State} {rate : Nat} (hidle : s.isIdle = true) (h0 : 0 < rate)
    (hle : rate ≤ s.fClk) : exec (.configure rate) s =
      runMicros (.configure rate) (configureProgram (highTicksFor s rate) (lowTicksFor s rate))
        { s with reply := none } := by
  simp [exec, execConfigure, hidle, h0.ne', hle.not_gt]

/-- The two ways CONFIGURE answers: it fails on its rate, or it calibrates. -/
theorem exec_configure_cases {s t : State} {rate : Nat} (h : exec (.configure rate) s = .next t) :
    t = { s with reply := some .unsupportedOperation } ∨
      runMicros (.configure rate) (configureProgram (highTicksFor s rate) (lowTicksFor s rate))
        { s with reply := none } = .next t := by
  simp only [exec, execConfigure] at h
  split at h
  · cases h
  · split at h
    · cases h
    · split at h
      · cases h
        exact .inl rfl
      · exact .inr h

/-! ### CONFIGURE: measuring -/

/-- CONFIGURE's program before the commit (R120, R128). -/
def measureProgram : List Micro := calUptimeProgram ++ calPinProgram .scl ++ calPinProgram .sda ++ calRestoreProgram

theorem configureProgram_eq (h l : Tick) : configureProgram h l = measureProgram ++ [.commit h l] := rfl

/-- A pin set or a clock read: what measuring is made of. -/
def Micro.measures : Micro → Bool
  | .set _ _ | .markUptime | .lapUptime | .lapPin _ => true
  | _ => false

/-- The state after measuring on the clock answers `t0` to `t5`. -/
def measured (t0 t1 t2 t3 t4 t5 : Tick) (rest : List Tick) (s : State) : State :=
  afterCalRestore <| afterCalPin .sda t4 t5 rest <| afterCalPin .scl t2 t3 (t4 :: t5 :: rest) <|
    afterCalUptime t0 t1 (t2 :: t3 :: t4 :: t5 :: rest) s

/-- Measuring writes both latches and the local variables, and reads the clock (R120, R125, R126). -/
theorem measured_eq (t0 t1 t2 t3 t4 t5 : Tick) (rest : List Tick) (s : State) :
    measured t0 t1 t2 t3 t4 t5 rest s = { s with
      sclOut := true, sdaOut := true
      loc := { s.loc with
        mark := t4, u := t1 - t0, cs := pinOverhead t2 t3 (t1 - t0), cd := pinOverhead t4 t5 (t1 - t0) }
      env := { s.env with up := rest, lastUp := t5 }
      trace := s.trace ++ [.uptime t0, .uptime t1, .uptime t2, .set .scl false, .uptime t3, .uptime t4,
        .set .sda false, .uptime t5, .set .scl true, .set .sda true] } := by
  simp [measured, afterCalRestore, afterCalPin, afterCalUptime, afterUptime, pinSet, emit, keepMark, keepLap,
    keepOverhead, elapsed]

/-- Six rising answers take the block through measuring (R120). -/
theorem measureProgram_passes {s : State} {t0 t1 t2 t3 t4 t5 : Tick} {rest : List Tick} (i : Instr)
    (hup : s.env.up = t0 :: t1 :: t2 :: t3 :: t4 :: t5 :: rest) (h0 : s.env.lastUp ≤ t0) (h1 : t0 ≤ t1) (h2 : t1 ≤ t2)
    (h3 : t2 ≤ t3) (h4 : t3 ≤ t4) (h5 : t4 ≤ t5) :
    Passes i measureProgram s (measured t0 t1 t2 t3 t4 t5 rest s) :=
  (((calUptime_passes i hup h0 h1).append (calPin_passes i .scl rfl h2 h3)).append
    (calPin_passes i .sda rfl h4 h5)).append (calRestore_passes i _)

/-- Whatever the clock answered, a block that has passed measuring has measured six answers (R120). -/
theorem measureProgram_passes_inv {i : Instr} {s t : State} (h : Passes i measureProgram s t) :
    ∃ t0 t1 t2 t3 t4 t5 rest, t = measured t0 t1 t2 t3 t4 t5 rest s := by
  obtain ⟨_, h, hrestore⟩ := h.of_append
  obtain ⟨_, h, hsda⟩ := h.of_append
  obtain ⟨_, huptime, hscl⟩ := h.of_append
  obtain ⟨t0, t1, _, rfl⟩ := calUptime_passes_inv huptime
  obtain ⟨t2, t3, _, rfl⟩ := calPin_passes_inv hscl
  obtain ⟨t4, t5, rest, rfl⟩ := calPin_passes_inv hsda
  obtain rfl := calRestore_passes_inv hrestore
  exact ⟨t0, t1, t2, t3, t4, t5, rest, rfl⟩

theorem uptimeInto_setWire (m : Micro) (keep : Tick → Locals → Locals) (s : State) :
    uptimeInto m keep s = .wait m s ∨ ∃ w, uptimeInto m keep s = .go (s.setWire w) := by
  obtain hwait | ⟨t, rest, hgo⟩ := uptimeInto_cases m keep s
  · exact .inl hwait
  · exact .inr ⟨(afterUptime keep t rest s).wire, hgo⟩

/-- Each of them waits in the state as it is, or goes on having written `Wire`'s fields alone. -/
theorem runMicro_measures (i : Instr) (m : Micro) (s : State) (hm : m.measures = true) :
    runMicro i m s = .wait m s ∨ ∃ w, runMicro i m s = .go (s.setWire w) := by
  cases m with
  | set p b =>
    obtain ⟨w, h⟩ := pinSet_eq_setWire p b s
    exact .inr ⟨w, congrArg Flow.go h⟩
  | markUptime => exact uptimeInto_setWire .markUptime keepMark s
  | lapUptime => exact uptimeInto_setWire .lapUptime keepLap s
  | lapPin p => exact uptimeInto_setWire (.lapPin p) (keepOverhead p) s
  | _ => cases hm

/-- Such a program waits or is run through, having written `Wire`'s fields alone. -/
theorem runMicros_measures (i : Instr) {ms : List Micro} (rest : List Micro) (s : State)
    (hms : ms.all Micro.measures = true) :
    (∃ w todo, runMicros i (ms ++ rest) s = .next { s.setWire w with pos := .running i todo }) ∨
      ∃ w, Passes i ms s (s.setWire w) := by
  induction ms generalizing s with
  | nil => exact .inr ⟨s.wire, rfl⟩
  | cons m ms ih =>
    obtain ⟨hm, hms⟩ : m.measures = true ∧ ms.all Micro.measures = true := by simpa using hms
    obtain hwait | ⟨w, hgo⟩ := runMicro_measures i m s hm
    · exact .inl ⟨s.wire, m :: (ms ++ rest), runMicros_wait _ hwait⟩
    · rw [List.cons_append, runMicros_go _ hgo]
      obtain ⟨w', todo, h⟩ | ⟨w', h⟩ := ih (s.setWire w) hms
      · exact .inl ⟨w', todo, h⟩
      · exact .inr ⟨w', .cons hgo h⟩

/-- The calibration, whatever the clock answered: it waits with the timing registers untouched, or it has measured six
answers and commits (R120, R130). -/
theorem runMicros_configureProgram (i : Instr) (h l : Tick) (s : State) :
    (∃ w todo, runMicros i (configureProgram h l) s = .next { s.setWire w with pos := .running i todo }) ∨
      ∃ t0 t1 t2 t3 t4 t5 rest, runMicros i (configureProgram h l) s =
        .next (finish i (commit h l (measured t0 t1 t2 t3 t4 t5 rest s))) := by
  rw [configureProgram_eq]
  obtain hwait | ⟨w, hpass⟩ := runMicros_measures i [.commit h l] s (ms := measureProgram) rfl
  · exact .inl hwait
  · obtain ⟨t0, t1, t2, t3, t4, t5, rest, hmeasured⟩ := measureProgram_passes_inv hpass
    rw [hpass.runMicros, hmeasured]
    exact .inr ⟨t0, t1, t2, t3, t4, t5, rest, rfl⟩

/-! ### CONFIGURE: the statements -/

/-- Settles O7: the tests by the equations of `exec_configure`; an accepted rate waits without a reply or commits. -/
theorem configureTestsTheRateFirst : Obligations.ConfigureTestsTheRateFirst := by
  refine fun s hidle => ⟨fun rate h => exec_configure_unsupported hidle h, exec_configure_zero hidle, fun hclk => ?_⟩
  rw [exec_configure_calibrates hidle hclk le_rfl]
  obtain ⟨w, todo, h⟩ | ⟨t0, t1, t2, t3, t4, t5, rest, h⟩ := runMicros_configureProgram (.configure s.fClk)
    (highTicksFor s s.fClk) (lowTicksFor s s.fClk) { s with reply := none }
  · exact ⟨_, h, by simp⟩
  · exact ⟨_, h, by simp [commit]⟩

/-- Settles O8, by `measureProgram_passes`: the counts are floors, the overheads and budgets saturating differences. -/
theorem configureMeasuresAndCommits : Obligations.ConfigureMeasuresAndCommits := by
  intro s rate t0 t1 t2 t3 t4 t5 rest hidle hrate hle hclk _ hduty hup h0 h1 h2 h3 h4 h5
  refine ⟨highTicksFor s rate, lowTicksFor s rate, t1 - t0, pinOverhead t2 t3 (t1 - t0), pinOverhead t4 t5 (t1 - t0),
    budget .., budget .., highTicksFor_toNat hrate hclk hduty, lowTicksFor_toNat hrate hclk, rfl,
    satSub_toNat .., satSub_toNat .., budget_toNat .., budget_toNat .., ?_⟩
  have hpass := measureProgram_passes (s := { s with reply := none }) (.configure rate) hup h0 h1 h2 h3 h4 h5
  obtain ⟨hpos, -, -⟩ := State.isIdle_eq_true hidle
  rw [exec_configure_calibrates hidle hrate hle, configureProgram_eq, hpass.runMicros, measured_eq]
  simp [runMicros, runMicro, commit, finish, returned, hpos]

/-- Settles O9: CONFIGURE fails on its rate, waits, or commits what it has measured. -/
theorem configureCommitsAllOrNothing : Obligations.ConfigureCommitsAllOrNothing := by
  intro s t rate h
  obtain rfl | hrun := exec_configure_cases h
  · exact .inl ⟨rfl, rfl, rfl, rfl, rfl, rfl, rfl, rfl, by simp⟩
  · obtain ⟨w, todo, hwait⟩ | ⟨t0, t1, t2, t3, t4, t5, rest, hdone⟩ := runMicros_configureProgram (.configure rate)
      (highTicksFor s rate) (lowTicksFor s rate) { s with reply := none }
    · obtain rfl : _ = t := Host.Outcome.next.inj (hwait.symm.trans hrun)
      exact .inl ⟨rfl, rfl, rfl, rfl, rfl, rfl, rfl, rfl, by simp⟩
    · obtain rfl : _ = t := Host.Outcome.next.inj (hdone.symm.trans hrun)
      rw [measured_eq]
      exact .inr ⟨_, t0, t1, t2, t3, t4, t5, rfl, rfl, rfl, rfl, rfl, rfl, rfl, rfl, rfl, rfl, rfl, rfl⟩

end Sys2Proof.Machine
end

section
/-!
PROOFS. The wire (R150 to R153, R156). `Runs` says what a part of a program does where the clock lets its delays end: the events
it shows and the state it leads to; parts are put together by `Runs.append`. Then START, STOP and the two cells, each as such a
part, and the abort of a driven cell.
-/

namespace Sys2Proof.Machine

/-! ### Running on a clock that serves -/

/-- The state with other clock answers and another trace. -/
def State.timed (s : State) (up : List Tick) (last : Tick) (tr : List Event) : State :=
  { s with env := { s.env with up := up, lastUp := last }, trace := tr }

/-- Where the clock lets the delays `ns` end, operation `i` runs through `ms` from `s` to `t` and shows the events `es`; the clock
then serves what it would have served after `ns`. The clocks and traces of `s` and `t` themselves are not looked at. -/
def Runs (i : Instr) (s : State) (ms : List Micro) (ns : List Tick) (es : List Event) (t : State) : Prop :=
  ∀ up last tr rest, clockServes (ns ++ rest) up last = true →
    ∃ up' last' tr', Passes i ms (s.timed up last tr) (t.timed up' last' tr') ∧ shown tr' = shown tr ++ es ∧
      clockServes rest up' last' = true

theorem Runs.nil (i : Instr) (s : State) : Runs i s [] [] [] s :=
  fun up last tr _ hclk => ⟨up, last, tr, rfl, (List.append_nil _).symm, hclk⟩

theorem Runs.append {i : Instr} {ms ms' : List Micro} {ns ns' : List Tick} {es es' : List Event} {s t u : State}
    (h : Runs i s ms ns es t) (h' : Runs i t ms' ns' es' u) : Runs i s (ms ++ ms') (ns ++ ns') (es ++ es') u := by
  intro up last tr rest hclk
  obtain ⟨up1, last1, tr1, hpass1, htr1, hclk1⟩ := h up last tr (ns' ++ rest) (by rwa [← List.append_assoc])
  obtain ⟨up2, last2, tr2, hpass2, htr2, hclk2⟩ := h' up1 last1 tr1 rest hclk1
  exact ⟨up2, last2, tr2, hpass1.append hpass2, by rw [htr2, htr1, List.append_assoc], hclk2⟩

/-- A micro-operation that shows no event and reads nothing. -/
theorem Runs.silent {i : Instr} {m : Micro} {s t : State}
    (h : ∀ up last tr, runMicro i m (s.timed up last tr) = .go (t.timed up last tr)) : Runs i s [m] [] [] t :=
  fun up last tr _ hclk => ⟨up, last, tr, .cons (h up last tr) rfl, (List.append_nil _).symm, hclk⟩

/-- Such a micro-operation after another part. -/
theorem Runs.append_silent {i : Instr} {ms : List Micro} {m : Micro} {ns : List Tick} {es : List Event} {s t u : State}
    (h : Runs i s ms ns es t) (hm : ∀ up last tr, runMicro i m (t.timed up last tr) = .go (u.timed up last tr)) :
    Runs i s (ms ++ [m]) ns es u := by
  simpa only [List.append_nil] using h.append (.silent hm)

/-- What a program does after such a part. -/
theorem Runs.runMicros {i : Instr} {ms : List Micro} {ns : List Tick} {es : List Event} {s t : State}
    (h : Runs i s ms ns es t) (hclk : clockServes ns s.env.up s.env.lastUp = true) :
    ∃ up last tr, shown tr = shown s.trace ++ es ∧
      ∀ post, runMicros i (ms ++ post) s = runMicros i post (t.timed up last tr) := by
  obtain ⟨up, last, tr, hpass, htr, -⟩ := h s.env.up s.env.lastUp s.trace [] (by rwa [List.append_nil])
  exact ⟨up, last, tr, htr, hpass.runMicros⟩

/-- A program that is such a part is finished. -/
theorem Runs.finish {i : Instr} {ms : List Micro} {ns : List Tick} {es : List Event} {s t : State}
    (h : Runs i s ms ns es t) (hclk : clockServes ns s.env.up s.env.lastUp = true) :
    ∃ up last tr, shown tr = shown s.trace ++ es ∧
      Machine.runMicros i ms s = .next (Machine.finish i (t.timed up last tr)) := by
  obtain ⟨up, last, tr, htr, hrun⟩ := h.runMicros hclk
  exact ⟨up, last, tr, htr, by simpa using hrun []⟩

/-! ### START, STOP and the two cells -/

theorem runs_setScl (i : Instr) (s : State) (b : Bit) :
    Runs i s [.set .scl b] [] [.set .scl b] { s with sclOut := b } :=
  fun up last tr _ hclk => ⟨up, last, tr ++ [Event.set .scl b], ⟨_, rfl, rfl⟩, by simp, hclk⟩

theorem runs_setSda (i : Instr) (s : State) (b : Bit) :
    Runs i s [.set .sda b] [] [.set .sda b] { s with sdaOut := b } :=
  fun up last tr _ hclk => ⟨up, last, tr ++ [Event.set .sda b], ⟨_, rfl, rfl⟩, by simp, hclk⟩

theorem runs_delay {i : Instr} {m : Micro} {n : Tick} {s : State}
    (hm : ∀ up last tr, runMicro i m (s.timed up last tr) = delayWhole n (s.timed up last tr)) :
    Runs i s [m] [n] [.delay n] s := by
  intro up last tr rest hclk
  obtain ⟨up1, last1, tr1, hgo, htr, hclk1⟩ := delayWhole_go n rest (s.timed up last tr) hclk
  exact ⟨up1, last1, tr1, .cons ((hm up last tr).trans hgo) rfl, htr, hclk1⟩

theorem runs_delayHigh (i : Instr) (s : State) : Runs i s [.delayHigh] [s.highBudget] [.delay s.highBudget] s :=
  runs_delay fun _ _ _ => rfl

theorem runs_delayLow (i : Instr) (s : State) : Runs i s [.delayLow] [s.lowBudget] [.delay s.lowBudget] s :=
  runs_delay fun _ _ _ => rfl

/-- SEND_START's sequence (R150). -/
theorem runs_startProgram (i : Instr) (s : State) :
    Runs i s startProgram [s.highBudget, s.highBudget, s.lowBudget] (startEvents s.highBudget s.lowBudget)
      { s with sclOut := false, sdaOut := false } :=
  (runs_setSda i _ true).append <| (runs_setScl i _ true).append <| (runs_delayHigh i _).append <|
    (runs_setSda i _ false).append <| (runs_delayHigh i _).append <| (runs_setScl i _ false).append <|
    runs_delayLow i _

/-- SEND_STOP's sequence (R151). -/
theorem runs_stopProgram (i : Instr) (s : State) :
    Runs i s stopProgram [s.highBudget, s.highBudget] (stopEvents s.highBudget)
      { s with sclOut := true, sdaOut := true } :=
  (runs_setSda i _ false).append <| (runs_setScl i _ true).append <| (runs_delayHigh i _).append <|
    (runs_setSda i _ true).append <| runs_delayHigh i _

/-- The two holds of each of `k` cells (R152, R153). -/
def cellHolds (k : Nat) (s : State) : List Tick := (List.replicate k [s.highBudget, s.lowBudget]).flatten

theorem cellHolds_add (j k : Nat) (s : State) : cellHolds (j + k) s = cellHolds j s ++ cellHolds k s := by
  rw [cellHolds, List.replicate_add, List.flatten_append]
  rfl

/-- A driven cell after `k` stretched polls (R152). -/
theorem runs_writeCell (i : Instr) {d : Micro} {b : Bit} {k : Nat} {vs : List Bit} {rs : List PollAnswer} {s : State}
    (hd : ∀ up last tr, runMicro i d (s.timed up last tr) = .go (pinSet .sda b (s.timed up last tr)))
    (hscl : s.env.scl = List.replicate k false ++ true :: vs) (hpoll : s.env.poll = pollsOk k ++ rs) :
    Runs i s (writeCell d) (cellHolds 1 s) (drivenCell s.highBudget s.lowBudget b k)
      { s with sclOut := false, sdaOut := b, env := { s.env with scl := vs, poll := rs } } :=
  fun up last tr rest hclk =>
    writeCell_passes i d b k vs rs rest s (s.timed up last tr).wire (hd up last tr) hscl hpoll hclk

/-- A sampled cell (R153). -/
theorem runs_readCell (i : Instr) {b : Bit} {bs : List Bit} {s : State} (hsda : s.env.sda = b :: bs) :
    Runs i s readCell (cellHolds 1 s) (sampledCell s.highBudget s.lowBudget b)
      { s with
        sclOut := false, sdaOut := true, loc := { s.loc with bit := b }, env := { s.env with sda := bs } } :=
  fun up last tr rest hclk => readCell_passes i b bs rest s (s.timed up last tr).wire hsda hclk

/-- Settles O20, by `runs_startProgram`. -/
theorem sendStartDrivesTheStartSequence : Obligations.SendStartDrivesTheStartSequence :=
  fun s hclk => (runs_startProgram .sendStart { s with ret := none }).finish hclk

/-- Settles O21, by `runs_stopProgram`. -/
theorem sendStopDrivesTheStopSequence : Obligations.SendStopDrivesTheStopSequence :=
  fun s hclk => (runs_stopProgram .sendStop { s with ret := none }).finish hclk

/-- Settles O23, by `runs_readCell`. -/
theorem readBitSamplesAfterTheHighHold : Obligations.ReadBitSamplesAfterTheHighHold :=
  fun s _ _ hsda hclk => (runs_readCell .readBit (s := { s with ret := none }) hsda).finish hclk

/-! ### The abort -/

theorem poll_cons_stretchEvents (k : Nat) : Event.poll .ok :: (stretchEvents k ++ [.get .scl false]) =
    (List.replicate (k + 1) [Event.poll .ok, .get .scl false]).flatten := by
  induction k with
  | zero => rfl
  | succ k ih =>
    rw [List.replicate_succ, List.flatten_cons, ← ih]
    rfl

/-- The clock-stretch loop from the poll the block waited for: `k` successful answers, each followed by an SCL read of 0, then one
that fails (R152, R156; log 7). -/
theorem stretchPollLoop_aborted {k : Nat} {vs : List Bit} {e : TimeoutErr} {rs : List PollAnswer} {s : State}
    (hscl : s.env.scl = List.replicate k false ++ vs) (hpoll : s.env.poll = pollsOk k ++ .fail e :: rs) :
    stretchPollLoop s = .aborted e { s with
      env := { s.env with scl := vs, poll := rs }
      trace := s.trace ++ ((List.replicate k [.poll .ok, .get .scl false]).flatten ++ [.poll (.fail e)]) } := by
  cases k with
  | zero => rw [stretchPollLoop_fail hpoll, show vs = s.env.scl from hscl.symm]; rfl
  | succ k =>
    rw [stretchPollLoop_ok (rs := pollsOk k ++ .fail e :: rs) hpoll]
    refine (stretchLoop_aborted k vs e rs
      { s with env := { s.env with poll := pollsOk k ++ .fail e :: rs }, trace := s.trace ++ [.poll .ok] }
      (by rw [hscl, List.replicate_succ', List.append_assoc]; rfl) rfl).trans ?_
    simp [← poll_cons_stretchEvents]

/-- An operation that waits, with no command on the port, goes on when its read is answered (R27). -/
theorem step_running {i : Instr} {todo : List Micro} {s : State} (hport : s.port = none) (hpos : s.pos = .running i todo) :
    step s = runMicros i todo (feedFor todo s) := by
  simp [step, nextTurn, hport, hpos]

theorem feed_scl_of_ne_nil {s : State} (h : s.env.scl ≠ []) : feed .scl s = s := by
  cases hscl : s.env.scl with
  | nil => exact absurd hscl h
  | cons => simp [feed, hscl]

theorem feed_poll_of_ne_nil {s : State} (h : s.env.poll ≠ []) : feed .poll s = s := by
  cases hpoll : s.env.poll with
  | nil => exact absurd hpoll h
  | cons => simp [feed, hpoll]

/-- Settles O16: both places of the loop halt in `abort`, by `stretchLoop_aborted` and `stretchPollLoop_aborted`. -/
theorem abortEndsTheOperation : Obligations.AbortEndsTheOperation := by
  intro s i ms k e vs rs hpoll ends
  have hends : ∀ {m0 : Micro} {es : List Event}, feedFor (m0 :: ms) s = s →
      runMicro i m0 s = .halt (abort i e
        { s with env := { s.env with scl := vs, poll := rs }, trace := s.trace ++ es }) → ends m0 es := by
    intro m0 es hfeed hhalt
    refine ⟨fun hseq => ?_, fun heng => ?_, fun hport hpos => ?_⟩
    · rw [runMicros_halt ms hhalt]
      simp only [abort, hseq, raise, latchError]
    · rw [runMicros_halt ms hhalt]
      simp only [abort, heng]
    · rw [step_running hport hpos, hfeed]
  refine ⟨fun hscl => hends (feed_scl_of_ne_nil (by simp [hscl])) ?_,
    fun hscl => hends (feed_poll_of_ne_nil (by simp [hpoll])) ?_⟩
  · rw [runMicro, stretchLoop_aborted k vs e rs s hscl hpoll, List.append_assoc]
    rfl
  · rw [runMicro, stretchPollLoop_aborted hscl hpoll]
    rfl

/-- A driven cell whose callback fails after `k` stretched polls (R152, R156). -/
theorem runMicros_writeCell_aborted {i : Instr} {d : Micro} {b : Bit} {k : Nat} {e : TimeoutErr} {vs : List Bit}
    {rs : List PollAnswer} {s : State} (post : List Micro) (hi : i.opClass = .eng)
    (hd : runMicro i d s = .go (pinSet .sda b s)) (hscl : s.env.scl = List.replicate k false ++ false :: vs)
    (hpoll : s.env.poll = pollsOk k ++ .fail e :: rs) :
    runMicros i (writeCell d ++ post) s = .next { s with
      sclOut := true, sdaOut := b, ret := some (.abort e), pos := .idle, env := { s.env with scl := vs, poll := rs }
      trace := s.trace ++ [.set .sda b, .set .scl true] ++ stretchEvents k ++ [.get .scl false, .poll (.fail e)] } := by
  have habort := stretchLoop_aborted k vs e rs (pinSet .scl true (pinSet .sda b s)) hscl hpoll
  calc runMicros i (writeCell d ++ post) s
      = runMicros i (.stretch :: ([.delayHigh, .set .scl false, .delayLow] ++ post))
          (pinSet .scl true (pinSet .sda b s)) := (runMicros_go _ hd).trans (runMicros_go _ rfl)
    _ = _ := runMicros_halt _ (by rw [runMicro, habort]; rfl)
    _ = _ := by simp [abort, hi, pinSet, emit]

/-- Such a cell after a part that has been run through. -/
theorem Runs.aborts {i : Instr} {ms : List Micro} {d : Micro} {ns : List Tick} {es : List Event} {s t : State} {b : Bit}
    {k : Nat} {e : TimeoutErr} {vs : List Bit} {rs : List PollAnswer} (h : Runs i s ms ns es t) (post : List Micro)
    (hi : i.opClass = .eng)
    (hd : ∀ up last tr, runMicro i d (t.timed up last tr) = .go (pinSet .sda b (t.timed up last tr)))
    (hscl : t.env.scl = List.replicate k false ++ false :: vs) (hpoll : t.env.poll = pollsOk k ++ .fail e :: rs)
    (hclk : clockServes ns s.env.up s.env.lastUp = true) :
    ∃ up last tr, shown tr = shown s.trace ++ es ++ [.set .sda b, .set .scl true] ++ stretchEvents k ++
        [.get .scl false, .poll (.fail e)] ∧
      Machine.runMicros i (ms ++ (writeCell d ++ post)) s = .next { t with
        sclOut := true, sdaOut := b, ret := some (.abort e), pos := .idle, trace := tr
        env := { t.env with scl := vs, poll := rs, up := up, lastUp := last } } := by
  obtain ⟨up, last, tr, htr, hrun⟩ := h.runMicros hclk
  refine ⟨up, last, tr ++ [.set .sda b, .set .scl true] ++ stretchEvents k ++ [.get .scl false, .poll (.fail e)],
    by simp [htr, shown_stretchEvents], ?_⟩
  rw [hrun, runMicros_writeCell_aborted post hi (hd up last tr) hscl hpoll]
  rfl

/-- Settles O22, by `runs_writeCell` and `runMicros_writeCell_aborted`. -/
theorem writeBitWaitsForSclThenHolds : Obligations.WriteBitWaitsForSclThenHolds := by
  intro s b k vs rs
  refine ⟨fun hscl hpoll hclk => ?_, fun e hscl hpoll => ?_⟩
  · exact (runs_writeCell (.writeBit b) (d := .set .sda b) (s := { s with ret := none })
      (fun _ _ _ => rfl) hscl hpoll).finish hclk
  · exact runMicros_writeCell_aborted (i := .writeBit b) (d := .set .sda b) (s := { s with ret := none }) [] rfl rfl hscl hpoll

end Sys2Proof.Machine
end

section
/-!
PROOFS. The bytes of the wire (R154, R155), by induction on their cells.
-/

namespace Sys2Proof.Machine

/-! ### The shift register -/

/-- `{SHREG[6:0], b}`, bit by bit (R100). -/
theorem getElem_shiftIn (v : Byte) (b : Bit) (j : Nat) (hj : j < 8) :
    (shiftIn v b)[j] = if j = 0 then b else v[j - 1] :=
  (BitVec.getElem_concat (v.setWidth 7) b j hj).trans (by simp [BitVec.getLsbD_eq_getElem (show j - 1 < 8 by omega)])

theorem shiftIn_false (v : Byte) : shiftIn v false = v <<< 1 := by
  ext j hj
  rw [getElem_shiftIn, BitVec.getElem_shiftLeft]
  rcases j with _ | j <;> simp

/-- After `n` cells the byte has moved up by `n` (R154). -/
theorem iterate_shiftIn_false (n : Nat) (v : Byte) : (shiftIn · false)^[n] v = v <<< n := by
  induction n generalizing v with
  | zero => simp
  | succ n ih => rw [Function.iterate_succ_apply, ih, shiftIn_false, ← BitVec.shiftLeft_add, Nat.add_comm]

/-- The eight bits of a byte, shifted in from bit 7 down, are the byte (R68, R155). -/
theorem foldl_shiftIn_wireBits (v : Byte) : (wireBits v).foldl shiftIn 0 = v := by
  ext j hj
  interval_cases j <;> simp [wireBits, getElem_shiftIn]

/-- `BITCNT` after `n` cells. -/
theorem iterate_bitcnt (n : Nat) : (· + 1)^[n] (0 : BitVec 4) = BitVec.ofNat 4 n := by
  induction n with
  | zero => rfl
  | succ n ih => rw [Function.iterate_succ_apply', ih, BitVec.ofNat_add]; rfl

/-- The next `n` bits that `SHREG` sends (R154). -/
def sentBits : Nat → Byte → List Bit
  | 0, _ => []
  | n + 1, v => msb v :: sentBits n (shiftIn v false)

theorem sentBits_eight (v : Byte) : sentBits 8 v = wireBits v := by
  simp [sentBits, wireBits, msb, shiftIn_false, ← BitVec.shiftLeft_add]

/-! ### The cells of WRITE_BYTE -/

theorem pollsOk_add (j k : Nat) : pollsOk (j + k) = pollsOk j ++ pollsOk k := List.replicate_add ..

theorem sclAnswers_cons_append (k : Nat) (ks : List Nat) (vs : List Bit) :
    sclAnswers (k :: ks) ++ vs = List.replicate k false ++ true :: (sclAnswers ks ++ vs) := by
  simp [sclAnswers]

/-- One cell of WRITE_BYTE with the shift after it. -/
def sendCell : List Micro := writeCell .setMsb ++ [.shiftOut]

/-- The block after `n` such cells, but for the environment and the trace. -/
def afterSent (n : Nat) (s : State) : State :=
  { s with
    sclOut := (sentBits n s.shreg).foldl (fun _ _ => false) s.sclOut
    sdaOut := (sentBits n s.shreg).foldl (fun _ b => b) s.sdaOut
    shreg := (shiftIn · false)^[n] s.shreg
    bitcnt := (· + 1)^[n] s.bitcnt }

theorem runs_sendCell (i : Instr) {k : Nat} {vs : List Bit} {rs : List PollAnswer} {s : State}
    (hscl : s.env.scl = List.replicate k false ++ true :: vs) (hpoll : s.env.poll = pollsOk k ++ rs) :
    Runs i s sendCell (cellHolds 1 s) (drivenCell s.highBudget s.lowBudget (msb s.shreg) k)
      { afterSent 1 s with env := { s.env with scl := vs, poll := rs } } :=
  (runs_writeCell i (fun _ _ _ => rfl) hscl hpoll).append_silent fun _ _ _ => rfl

theorem runs_sendCells (i : Instr) (ks : List Nat) {m : Nat} (hm : ks.length ≤ m) {vs : List Bit}
    {rs : List PollAnswer} {s : State}
    (hscl : s.env.scl = sclAnswers ks ++ vs) (hpoll : s.env.poll = pollsOk ks.sum ++ rs) :
    Runs i s (List.replicate ks.length sendCell).flatten (cellHolds ks.length s)
      (drivenCells s.highBudget s.lowBudget (sentBits m s.shreg) ks)
      { afterSent ks.length s with env := { s.env with scl := vs, poll := rs } } := by
  induction ks generalizing m s with
  | nil =>
    obtain rfl : s.env.scl = vs := hscl
    obtain rfl : s.env.poll = rs := hpoll
    cases m <;> exact Runs.nil i s
  | cons k ks ih =>
    obtain ⟨m, rfl⟩ : ∃ m', m = m' + 1 := Nat.exists_eq_add_of_le' ((Nat.le_add_left 1 _).trans hm)
    rw [sclAnswers_cons_append] at hscl
    rw [List.sum_cons, pollsOk_add, List.append_assoc] at hpoll
    exact (runs_sendCell i hscl hpoll).append (ih (Nat.le_of_succ_le_succ hm) rfl rfl)

/-- WRITE_BYTE up to the end of its cell `ks.length`, at most the eighth (R154). -/
theorem runs_loadByte_sendCells (i : Instr) (v : Byte) {ks : List Nat} (hks : ks.length ≤ 8) {vs : List Bit}
    {rs : List PollAnswer} {s : State}
    (hscl : s.env.scl = sclAnswers ks ++ vs) (hpoll : s.env.poll = pollsOk ks.sum ++ rs) :
    Runs i s ([.loadByte v] ++ (List.replicate ks.length sendCell).flatten) (cellHolds ks.length s)
      (drivenCells s.highBudget s.lowBudget (wireBits v) ks) { s with
        sclOut := (sentBits ks.length v).foldl (fun _ _ => false) s.sclOut
        sdaOut := (sentBits ks.length v).foldl (fun _ b => b) s.sdaOut
        shreg := v <<< ks.length, bitcnt := BitVec.ofNat 4 ks.length
        env := { s.env with scl := vs, poll := rs } } := by
  have hload : Runs i s [.loadByte v] [] [] { s with shreg := v, bitcnt := 0 } := .silent fun _ _ _ => rfl
  rw [← sentBits_eight, ← iterate_shiftIn_false, ← iterate_bitcnt]
  exact hload.append (runs_sendCells i ks hks hscl hpoll)

/-- The acknowledge cell of WRITE_BYTE (R154). -/
theorem runs_ackCell (i : Instr) {ack : Bit} {bs : List Bit} {s : State} (hsda : s.env.sda = ack :: bs) :
    Runs i s (readCell ++ [.latchAck]) (cellHolds 1 s) (sampledCell s.highBudget s.lowBudget ack) { s with
      ackbit := ack, sclOut := false, sdaOut := true, loc := { s.loc with bit := ack }
      env := { s.env with sda := bs } } :=
  (runs_readCell i hsda).append_silent fun _ _ _ => rfl

theorem writeByteProgram_eq (v : Byte) : writeByteProgram v =
    [.loadByte v] ++ (List.replicate 8 sendCell).flatten ++ (readCell ++ [.latchAck]) := rfl

/-- WRITE_BYTE's whole frame (R154). -/
theorem runs_writeByteProgram (i : Instr) (v : Byte) {ks : List Nat} (hks : ks.length = 8) {ack : Bit}
    {vs bs : List Bit} {rs : List PollAnswer} {s : State}
    (hscl : s.env.scl = sclAnswers ks ++ vs) (hpoll : s.env.poll = pollsOk ks.sum ++ rs)
    (hsda : s.env.sda = ack :: bs) :
    Runs i s (writeByteProgram v) (cellHolds 9 s) (sentFrame s.highBudget s.lowBudget v ks ack) { s with
      shreg := 0, bitcnt := 8, ackbit := ack, sclOut := false, sdaOut := true, loc := { s.loc with bit := ack }
      env := { s.env with scl := vs, poll := rs, sda := bs } } := by
  have hsend := runs_loadByte_sendCells i v hks.le hscl hpoll
  rw [hks, BitVec.shiftLeft_eq_zero le_rfl] at hsend
  exact hsend.append (runs_ackCell i hsda)

/-- WRITE_BYTE's program around one of its driven cells. -/
theorem writeByteProgram_split (v : Byte) {j : Nat} (hj : j < 8) : ∃ post, writeByteProgram v =
    ([.loadByte v] ++ (List.replicate j sendCell).flatten) ++ (writeCell .setMsb ++ post) := by
  obtain ⟨r, hr⟩ := Nat.exists_eq_add_of_lt hj
  refine ⟨[.shiftOut] ++ (List.replicate r sendCell).flatten ++ (readCell ++ [.latchAck]), ?_⟩
  rw [writeByteProgram_eq, hr, Nat.add_assoc, List.replicate_add, List.replicate_succ, List.flatten_append,
    List.flatten_cons, sendCell]
  simp only [List.append_assoc]

/-- Settles O24, by `runs_writeByteProgram` and, in the cell after `ks`, `Runs.aborts`. -/
theorem writeByteSendsMsbFirstAndSamplesTheAck : Obligations.WriteByteSendsMsbFirstAndSamplesTheAck := by
  intro s v ks vs bs rs
  refine ⟨fun ack hks hscl hpoll hsda hclk => ?_, fun e k hks hscl hpoll hclk => ?_⟩
  · exact (runs_writeByteProgram (.writeByte v) v (s := { s with ret := none }) hks hscl hpoll hsda).finish hclk
  · have hsend := runs_loadByte_sendCells (.writeByte v) v (s := { s with ret := none }) hks.le hscl hpoll
    obtain ⟨post, hpost⟩ := writeByteProgram_split v hks
    obtain ⟨up, last, tr, htr, hrun⟩ := hsend.aborts (d := .setMsb) (b := msb (v <<< ks.length)) post rfl
      (fun _ _ _ => rfl) rfl rfl hclk
    exact ⟨up, last, tr, htr, (congrArg (runMicros _ · _) hpost).trans hrun⟩

/-! ### READ_BYTE -/

/-- One cell of READ_BYTE with the shift after it. -/
def receiveCell : List Micro := readCell ++ [.shiftIn]

/-- The block after it has received the bits `bits`, but for the environment and the trace. -/
def afterReceived (bits : List Bit) (s : State) : State :=
  { s with
    sclOut := bits.foldl (fun _ _ => false) s.sclOut
    sdaOut := bits.foldl (fun _ _ => true) s.sdaOut
    shreg := bits.foldl shiftIn s.shreg
    bitcnt := bits.foldl (fun c _ => c + 1) s.bitcnt
    loc := { s.loc with bit := bits.foldl (fun _ b => b) s.loc.bit } }

theorem runs_receiveCell (i : Instr) {b : Bit} {bs : List Bit} {s : State} (hsda : s.env.sda = b :: bs) :
    Runs i s receiveCell (cellHolds 1 s) (sampledCell s.highBudget s.lowBudget b)
      { afterReceived [b] s with env := { s.env with sda := bs } } :=
  (runs_readCell i hsda).append_silent fun _ _ _ => rfl

theorem runs_receiveCells (i : Instr) {bits bs : List Bit} {s : State} (hsda : s.env.sda = bits ++ bs) :
    Runs i s (List.replicate bits.length receiveCell).flatten (cellHolds bits.length s)
      (bits.flatMap (sampledCell s.highBudget s.lowBudget))
      { afterReceived bits s with env := { s.env with sda := bs } } := by
  induction bits generalizing s with
  | nil =>
    obtain rfl : s.env.sda = bs := hsda
    exact Runs.nil i s
  | cons b bits ih =>
    exact (runs_receiveCell i hsda).append (ih rfl)

/-- READ_BYTE's eight cells (R155). -/
theorem runs_readByteProgram (i : Instr) (v : Byte) {bs : List Bit} {s : State} (hsda : s.env.sda = wireBits v ++ bs) :
    Runs i s readByteProgram (cellHolds 8 s) (receivedCells s.highBudget s.lowBudget v) { s with
      shreg := v, bitcnt := 8, sclOut := false, sdaOut := true, loc := { s.loc with bit := v.getLsbD 0 }
      env := { s.env with sda := bs } } := by
  have hload : Runs i s [.loadByte 0] [] [] { s with shreg := 0, bitcnt := 0 } := .silent fun _ _ _ => rfl
  have hcells := hload.append (runs_receiveCells i (bits := wireBits v) hsda)
  rw [afterReceived, foldl_shiftIn_wireBits] at hcells
  exact hcells

/-- Settles O25, by `runs_readByteProgram`. -/
theorem readByteAssemblesMsbFirst : Obligations.ReadByteAssemblesMsbFirst :=
  fun s v _ hsda hclk => (runs_readByteProgram .readByte v (s := { s with ret := none }) hsda).finish hclk

end Sys2Proof.Machine
end

section
/-!
PROOFS. WRITE_ADDRESS and WRITE (R157, R158) as what follows WRITE_BYTE's own end: how an operation can come to an end, and
that outside the sequencer neither the operation's name nor its position matters to what its micro-operations do.
-/

namespace Sys2Proof.Machine

/-! ### How an operation comes to its end -/

/-- An operation that has come to an end has been run through, or one of its micro-operations has ended it. -/
theorem runMicros_idle {i : Instr} {ms : List Micro} {s t : State} (h : runMicros i ms s = .next t)
    (ht : t.pos = .idle) : (∃ u, Passes i ms s u ∧ t = finish i u) ∨
      ∃ pre m post u v, ms = pre ++ m :: post ∧ Passes i pre s u ∧ runMicro i m u = .halt v ∧
        t = { v with pos := .idle } := by
  induction ms generalizing s with
  | nil => exact .inl ⟨s, rfl, (Host.Outcome.next.inj h).symm⟩
  | cons m ms ih =>
    cases hm : runMicro i m s with
    | go s1 =>
      rw [runMicros_go ms hm] at h
      obtain ⟨u, hpass, rfl⟩ | ⟨pre, m', post, u, v, rfl, hpass, hhalt, rfl⟩ := ih h
      · exact .inl ⟨u, .cons hm hpass, rfl⟩
      · exact .inr ⟨m :: pre, m', post, u, v, rfl, .cons hm hpass, hhalt, rfl⟩
    | wait m' s1 =>
      rw [runMicros_wait ms hm] at h
      obtain rfl := Host.Outcome.next.inj h
      cases ht
    | halt s1 =>
      rw [runMicros_halt ms hm] at h
      exact .inr ⟨[], m, ms, s, s1, rfl, rfl, hm, (Host.Outcome.next.inj h).symm⟩
    | fault f =>
      rw [runMicros_fault ms hm] at h
      cases h

/-- A micro-operation ends its operation by an abort or as the NACK test. -/
theorem runMicro_halt {i : Instr} {m : Micro} {s t : State} (h : runMicro i m s = .halt t) :
    (m.onWire = true ∧ ∃ e u, t = abort i e u) ∨ (m.onWire = false ∧ ∃ k, t = { s with ret := some (.fail k) }) := by
  by_cases hm : m.onWire = true
  · obtain ⟨w, hgo | ⟨m', -, hwait⟩ | ⟨e, -, hhalt⟩⟩ := runMicro_onWire i m s hm
    · simp [hgo] at h
    · simp [hwait] at h
    · exact .inl ⟨hm, e, _, Flow.halt.inj (h.symm.trans hhalt)⟩
  · cases m with
    | failOnNack k =>
      simp only [runMicro] at h
      split at h
      · cases h
      · exact .inr ⟨rfl, k, (Flow.halt.inj h).symm⟩
    | storeRbuf =>
      simp only [runMicro] at h
      split at h <;> cases h
    | markUptime | lapUptime | lapPin =>
      simp only [runMicro, uptimeInto] at h
      split at h <;> cases h
    | storeSink | missingByte | afterAddress | afterWrite | afterRead | goto | commit => cases h
    | _ => exact absurd rfl hm

theorem abort_of_ne_seq {i : Instr} (hi : i.opClass ≠ .seq) (e : TimeoutErr) (s : State) :
    abort i e s = { s with ret := some (.abort e) } := by
  cases hcls : i.opClass with
  | seq => exact absurd hcls hi
  | _ => simp [abort, hcls]

/-- Outside the sequencer the operation's name does not matter to a micro-operation. -/
theorem runMicro_instr {i i' : Instr} (hi : i.opClass ≠ .seq) (hi' : i'.opClass ≠ .seq) (m : Micro) (s : State) :
    runMicro i m s = runMicro i' m s := by
  have hstretch : stretchFlow i = stretchFlow i' := by
    funext st
    cases st <;> simp [stretchFlow, abort_of_ne_seq hi, abort_of_ne_seq hi']
  cases m with
  | stretch | stretchPoll => simp only [runMicro, hstretch]
  | _ => rfl

theorem Passes.instr {i i' : Instr} (hi : i.opClass ≠ .seq) (hi' : i'.opClass ≠ .seq) {ms : List Micro} {s t : State}
    (h : Passes i ms s t) : Passes i' ms s t := by
  induction ms generalizing s with
  | nil => exact h
  | cons m ms ih =>
    obtain ⟨s1, hgo, htail⟩ := h
    exact .cons ((runMicro_instr hi' hi m s).trans hgo) (ih htail)

/-! ### The position inside an operation -/

/-- The state at another position. -/
def State.at (p : Pos) (s : State) : State := { s with pos := p }

/-- A flow whose state is changed by `f`. -/
def Flow.map (f : State → State) : Flow → Flow
  | .go s => .go (f s)
  | .wait m s => .wait m (f s)
  | .halt s => .halt (f s)
  | .fault e => .fault e

/-- The clock-stretch loop's end, its state changed by `f`. -/
def Stretch.map (f : State → State) : Stretch → Stretch
  | .released s => .released (f s)
  | .waitScl s => .waitScl (f s)
  | .waitPoll s => .waitPoll (f s)
  | .aborted e s => .aborted e (f s)

theorem takePoll_at (p : Pos) (s : State) :
    takePoll (s.at p) = (takePoll s).map fun a => (a.1, a.2.at p) := by
  cases h : s.env.poll <;> simp [takePoll, State.at, h, emit]

theorem stretchLoop_at (p : Pos) (vs : List Bit) (s : State) :
    stretchLoop vs (s.at p) = (stretchLoop vs s).map (State.at p) := by
  induction vs generalizing s with
  | nil => rfl
  | cons v vs ih =>
    cases v with
    | true => rfl
    | false =>
      have hpoll := takePoll_at p (emit (.get .scl false) { s with env := { s.env with scl := vs } })
      simp only [stretchLoop, Bool.false_eq_true, if_false]
      rw [show emit (.get .scl false) { s.at p with env := { (s.at p).env with scl := vs } } =
        (emit (.get .scl false) { s with env := { s.env with scl := vs } }).at p from rfl, hpoll]
      rcases takePoll (emit (.get .scl false) { s with env := { s.env with scl := vs } }) with _ | ⟨_ | e, t⟩
      · rfl
      · exact ih t
      · rfl

theorem stretchPollLoop_at (p : Pos) (s : State) :
    stretchPollLoop (s.at p) = (stretchPollLoop s).map (State.at p) := by
  simp only [stretchPollLoop, takePoll_at]
  rcases takePoll s with _ | ⟨_ | e, t⟩
  · rfl
  · exact stretchLoop_at p t.env.scl t
  · rfl

theorem stretchFlow_map_at (i : Instr) (p : Pos) (st : Stretch) :
    stretchFlow i (st.map (State.at p)) = (stretchFlow i st).map (State.at p) := by
  cases st with
  | aborted e s => simp only [Stretch.map, stretchFlow, Flow.map, abort]; cases i.opClass <;> rfl
  | _ => rfl

theorem delayFlow_at (n start : Tick) (p : Pos) (s : State) :
    delayFlow n start (s.at p) = (delayFlow n start s).map (State.at p) := by
  simp only [delayFlow, apply_ite (Flow.map (State.at p))]
  rfl

theorem takeUptime_at (p : Pos) (s : State) :
    takeUptime (s.at p) = (takeUptime s).map fun a => (a.1, a.2.at p) := by
  cases h : s.env.up <;> simp [takeUptime, State.at, h, emit]

theorem delayStartFlow_at (n : Tick) (p : Pos) (s : State) :
    delayStartFlow n (s.at p) = (delayStartFlow n s).map (State.at p) := by
  simp only [delayStartFlow, takeUptime_at]
  rcases takeUptime s with _ | ⟨c, t⟩
  · rfl
  · exact delayFlow_at n c p t

theorem uptimeInto_at (m : Micro) (keep : Tick → Locals → Locals) (p : Pos) (s : State) :
    uptimeInto m keep (s.at p) = (uptimeInto m keep s).map (State.at p) := by
  simp only [uptimeInto, takeUptime_at]
  cases takeUptime s <;> rfl

/-- A micro-operation neither reads nor writes the position. -/
theorem runMicro_at (i : Instr) (m : Micro) (p : Pos) (s : State) :
    runMicro i m (s.at p) = (runMicro i m s).map (State.at p) := by
  cases m with
  | set q b => cases q <;> rfl
  | stretch => exact (congrArg _ (stretchLoop_at p s.env.scl s)).trans (stretchFlow_map_at i p _)
  | stretchPoll => exact (congrArg _ (stretchPollLoop_at p s)).trans (stretchFlow_map_at i p _)
  | delay n => exact delayStartFlow_at n p (emit (.delay n) s)
  | delayHigh => exact delayStartFlow_at s.highBudget p (emit (.delay s.highBudget) s)
  | delayLow => exact delayStartFlow_at s.lowBudget p (emit (.delay s.lowBudget) s)
  | delayStart n => exact delayStartFlow_at n p s
  | delayLoop n start => exact delayFlow_at n start p s
  | sample => cases h : s.env.sda <;> simp [runMicro, takeSda, State.at, h, emit, Flow.map]
  | failOnNack k => simp only [runMicro, apply_ite (Flow.map (State.at p))]; rfl
  | storeRbuf =>
    by_cases h : s.rcur < s.rlen <;> simp [runMicro, memWriteRbuf, State.at, h, emit, Flow.map]
  | afterAddress => simp only [runMicro, Flow.map, afterAddress, apply_ite (State.at p)]; rfl
  | afterWrite => simp only [runMicro, Flow.map, afterWrite, apply_ite (State.at p)]; rfl
  | markUptime => exact uptimeInto_at .markUptime keepMark p s
  | lapUptime => exact uptimeInto_at .lapUptime keepLap p s
  | lapPin q => exact uptimeInto_at (.lapPin q) (keepOverhead q) p s
  | _ => rfl

/-- What an operation does does not depend on the position noted before it. -/
theorem runMicros_at (i : Instr) (ms : List Micro) (p : Pos) (s : State) :
    runMicros i ms (s.at p) = runMicros i ms s := by
  induction ms generalizing s with
  | nil => rfl
  | cons m ms ih =>
    simp only [runMicros, runMicro_at]
    cases runMicro i m s with
    | go t => exact ih t
    | _ => rfl

/-! ### What follows WRITE_BYTE -/

theorem runMicro_go_ret {i : Instr} {m : Micro} {s t : State} (h : runMicro i m s = .go t) : t.ret = s.ret := by
  by_cases hm : m.onWire = true
  · obtain ⟨w, hgo | ⟨m', -, hwait⟩ | ⟨e, -, hhalt⟩⟩ := runMicro_onWire i m s hm
    · rw [← Flow.go.inj (hgo.symm.trans h)]
      rfl
    · simp [hwait] at h
    · simp [hhalt] at h
  · cases m with
    | failOnNack k =>
      simp only [runMicro] at h
      split at h <;> cases h
      rfl
    | storeRbuf =>
      simp only [runMicro, memWriteRbuf] at h
      split at h
      · cases h
      · next hstore =>
        split at hstore <;> cases hstore
        cases h
        rfl
    | afterAddress =>
      cases h
      simp only [afterAddress]
      split <;> rfl
    | afterWrite =>
      cases h
      simp only [afterWrite]
      split <;> rfl
    | markUptime => obtain ⟨c, rest, rfl⟩ := uptimeInto_go_inv (keep := keepMark) h; rfl
    | lapUptime => obtain ⟨c, rest, rfl⟩ := uptimeInto_go_inv (keep := keepLap) h; rfl
    | lapPin p => obtain ⟨c, rest, rfl⟩ := uptimeInto_go_inv (keep := keepOverhead p) h; rfl
    | storeSink | afterRead | goto | commit => cases h; rfl
    | missingByte => cases h
    | _ => exact absurd rfl hm

theorem Passes.ret {i : Instr} {ms : List Micro} {s t : State} (h : Passes i ms s t) : t.ret = s.ret := by
  induction ms generalizing s with
  | nil => cases h; rfl
  | cons m ms ih =>
    obtain ⟨s1, hgo, htail⟩ := h
    exact (ih htail).trans (runMicro_go_ret hgo)

/-- An operation on its own has noted its return and is idle; within a longer one neither has been noted yet, and it goes on
the same. -/
theorem runMicros_finish {u : State} (hu : u.ret = none) (i i' : Instr) (ms : List Micro) :
    runMicros i' ms { finish i u with ret := none } = runMicros i' ms u := by
  have hat : { finish i u with ret := none } = u.at .idle := by rw [← hu]; rfl
  rw [hat, runMicros_at]

theorem runMicros_failOnNack_of_nack {s : State} (i : Instr) (k : Result) (post : List Micro)
    (h : acknowledged s.ackbit = false) :
    runMicros i (.failOnNack k :: post) s = .next { s with ret := some (.fail k), pos := .idle } := by
  simp [runMicros, runMicro, h]

theorem runMicros_failOnNack_of_ack {s : State} (i : Instr) (k : Result) (post : List Micro)
    (h : acknowledged s.ackbit = true) : runMicros i (.failOnNack k :: post) s = runMicros i post s := by
  simp [runMicros, runMicro, h]

theorem writeByteProgram_onWire (v : Byte) : ∀ m ∈ writeByteProgram v, m.onWire = true :=
  List.all_eq_true.mp (show (writeByteProgram v).all Micro.onWire = true from rfl)

/-- WRITE_BYTE within a longer operation outside the sequencer, and the test of its acknowledgement (R157, R158). -/
theorem runMicros_writeByteProgram_failOnNack {i : Instr} (hi : i.opClass ≠ .seq) {s t : State} {v : Byte} (k : Result)
    (post : List Micro) (h : exec (.writeByte v) s = .next t) (ht : t.pos = .idle) :
    (∀ e, t.ret = some (.abort e) →
      runMicros i (writeByteProgram v ++ .failOnNack k :: post) { s with ret := none } = .next t) ∧
    (t.ret = some (.acknowledged false) →
      runMicros i (writeByteProgram v ++ .failOnNack k :: post) { s with ret := none } =
        .next { t with ret := some (.fail k) }) ∧
    (t.ret = some (.acknowledged true) →
      runMicros i (writeByteProgram v ++ .failOnNack k :: post) { s with ret := none } =
        runMicros i post { t with ret := none }) := by
  have hbyte : (Instr.writeByte v).opClass ≠ .seq := by simp [Instr.opClass]
  obtain ⟨u, hpass, rfl⟩ | ⟨pre, m, post', u, w, hms, hpass, hhalt, rfl⟩ := runMicros_idle h ht
  · rw [(hpass.instr hbyte hi).runMicros]
    have hret : (finish (.writeByte v) u).ret = some (.acknowledged (acknowledged u.ackbit)) := rfl
    rw [hret]
    refine ⟨fun e he => by simp at he, fun hnack => ?_, fun hack => ?_⟩
    · exact runMicros_failOnNack_of_nack i k post (by simpa using hnack)
    · rw [runMicros_failOnNack_of_ack i k post (by simpa using hack), runMicros_finish hpass.ret]
  · have hm : m.onWire = true := writeByteProgram_onWire v m (by simp [hms])
    obtain ⟨-, e, u', rfl⟩ | ⟨hm', -⟩ := runMicro_halt hhalt
    · rw [abort_of_ne_seq hbyte]
      refine ⟨fun e' _ => ?_, fun hnack => by simp at hnack, fun hack => by simp at hack⟩
      rw [hms, List.append_assoc, (hpass.instr hbyte hi).runMicros, List.cons_append,
        runMicros_halt _ ((runMicro_instr hi hbyte m u).trans hhalt), abort_of_ne_seq hbyte]
    · rw [hm] at hm'
      cases hm'

/-- An operation that has nothing more to do notes its return. -/
theorem runMicros_nil_of_idle {i : Instr} {t : State} {r : Ret} (ht : t.pos = .idle)
    (hi : returned i { t with ret := none } = some r) :
    runMicros i [] { t with ret := none } = .next { t with ret := some r } := by
  rw [runMicros_nil, finish, hi, ← ht]

/-- Settles O26: WRITE_BYTE's own end by `runMicros_writeByteProgram_failOnNack`, the frame by `runs_writeByteProgram`. -/
theorem writeAddressFailsOnNack : Obligations.WriteAddressFailsOnNack := by
  refine ⟨fun s t v h ht => ?_, fun s v ks ack vs bs rs hks hscl hpoll hsda hclk => ?_⟩
  · obtain ⟨habort, hnack, hack⟩ := runMicros_writeByteProgram_failOnNack (i := .writeAddress v) (by simp [Instr.opClass])
      .noSuchDevice [] h ht
    exact ⟨habort, hnack, fun hret => (hack hret).trans (runMicros_nil_of_idle ht rfl)⟩
  · obtain ⟨up, last, tr, htr, hrun⟩ :=
      (runs_writeByteProgram (.writeAddress v) v (s := { s with ret := none }) hks hscl hpoll hsda).runMicros hclk
    refine ⟨up, last, tr, htr, (hrun [.failOnNack .noSuchDevice]).trans ?_⟩
    cases ack <;> rfl

/-! ### WRITE -/

theorem writeProgram_length (buf : List Byte) :
    writeProgram buf.length buf = buf.flatMap fun b => writeByteProgram b ++ [.failOnNack .ioError] := by
  simp [writeProgram]

/-- WRITE of the bytes `acked` that ended with `ok` in `t` is where a longer WRITE goes on with its next bytes (R158). -/
theorem exec_write_append {s t : State} {acked : List Byte} (rest : List Byte)
    (h : exec (.write acked.length acked) s = .next t) (ht : t.pos = .idle) (hok : t.ret = some .ok) :
    exec (.write (acked ++ rest).length (acked ++ rest)) s =
      runMicros (.write (acked ++ rest).length (acked ++ rest))
        (rest.flatMap fun b => writeByteProgram b ++ [.failOnNack .ioError]) { t with ret := none } := by
  have hcls : ∀ n buf, (Instr.write n buf).opClass ≠ .seq := fun _ _ => by simp [Instr.opClass]
  obtain ⟨u, hpass, rfl⟩ | ⟨pre, m, post, u, w, -, -, hhalt, rfl⟩ := runMicros_idle h ht
  · have hpass' := hpass.instr (hcls _ _) (hcls (acked ++ rest).length (acked ++ rest))
    rw [runMicros_finish hpass.ret, ← hpass'.runMicros, writeProgram_length, ← List.flatMap_append, ← writeProgram_length]
    rfl
  · obtain ⟨-, e, u', rfl⟩ | ⟨-, k, rfl⟩ := runMicro_halt hhalt
    · simp [abort_of_ne_seq (hcls _ _)] at hok
    · simp at hok

/-- Settles O27, by `exec_write_append` and `runMicros_writeByteProgram_failOnNack`. -/
theorem writeIsALoopOfWriteByte : Obligations.WriteIsALoopOfWriteByte := by
  refine ⟨fun s => rfl, ?_⟩
  rintro s t u _ m acked post v rfl hm hacked ht hok hv hu
  obtain rfl : m = (acked ++ v :: post).length := by
    simp only [hm, List.length_append, List.length_cons]
    omega
  rw [exec_write_append (v :: post) hacked ht hok, List.flatMap_cons, List.append_assoc]
  obtain ⟨habort, hnack, hack⟩ := runMicros_writeByteProgram_failOnNack
    (i := .write (acked ++ v :: post).length (acked ++ v :: post)) (by simp [Instr.opClass]) .ioError
    (post.flatMap fun b => writeByteProgram b ++ [.failOnNack .ioError]) hv hu
  refine ⟨habort, hnack, fun hret hpost => (hack hret).trans ?_⟩
  subst hpost
  exact runMicros_nil_of_idle hu rfl

end Sys2Proof.Machine
end

section
/-!
PROOFS. READ (R159): the frame of one received byte, and by induction on the bytes, the last one taken off, all the frames.
-/

namespace Sys2Proof.Machine

/-! ### The sink -/

theorem Memory.write_ofBytesFrom (bs : List Byte) (k : Nat) (v : Byte) :
    Memory.write (Memory.ofBytesFrom k bs) (k + bs.length) v = Memory.ofBytesFrom k (bs ++ [v]) := by
  induction bs generalizing k with
  | nil => rfl
  | cons b bs ih =>
    have hlt : ¬ k + (bs.length + 1) < k := by omega
    have hne : k + (bs.length + 1) ≠ k := by omega
    have hidx : k + (bs.length + 1) = k + 1 + bs.length := by omega
    simp only [List.cons_append, Memory.ofBytesFrom, Memory.write, List.length_cons, if_neg hlt, if_neg hne]
    rw [hidx, ih]

/-- A byte stored after the bytes of a buffer. -/
theorem Memory.write_ofBytes (bs : List Byte) (v : Byte) :
    Memory.write (Memory.ofBytes bs) bs.length v = Memory.ofBytes (bs ++ [v]) := by
  simpa [Memory.ofBytes] using Memory.write_ofBytesFrom bs 0 v

/-! ### One frame -/

/-- Byte `k` of `n`: received, stored, acknowledged (R159). -/
def receiveFrame (n k : Nat) : List Micro :=
  readByteProgram ++ [.storeSink k] ++ writeCell (.set .sda (ackCell (decide (k + 1 < n))))

theorem readProgram_eq (n : Nat) : readProgram n = (List.range n).flatMap (receiveFrame n) := rfl

/-- The acknowledge bit is 1 after the last byte only (R93, R159). -/
theorem ackCell_of_lt {k n : Nat} (h : k < n) : ackCell (decide (k + 1 < n)) = decide (k + 1 = n) := by
  simp only [ackCell, ← decide_not]
  exact decide_eq_decide.mpr (by omega)

/-- A byte received and stored at index `k`. -/
theorem runs_receiveByte (i : Instr) (k : Nat) (v : Byte) {bs : List Bit} {s : State}
    (hsda : s.env.sda = wireBits v ++ bs) :
    Runs i s (readByteProgram ++ [.storeSink k]) (cellHolds 8 s) (receivedCells s.highBudget s.lowBudget v) { s with
      shreg := v, bitcnt := 8, sclOut := false, sdaOut := true, sink := Memory.write s.sink k v
      loc := { s.loc with bit := v.getLsbD 0 }, env := { s.env with sda := bs } } :=
  (runs_readByteProgram i v hsda).append_silent fun _ _ _ => rfl

/-- Its whole frame. -/
theorem runs_receiveFrame (i : Instr) {n k : Nat} (hk : k < n) (v : Byte) {j : Nat} {vs bs : List Bit}
    {rs : List PollAnswer} {s : State} (hsda : s.env.sda = wireBits v ++ bs)
    (hscl : s.env.scl = List.replicate j false ++ true :: vs) (hpoll : s.env.poll = pollsOk j ++ rs) :
    Runs i s (receiveFrame n k) (cellHolds 9 s)
      (receivedCells s.highBudget s.lowBudget v ++ drivenCell s.highBudget s.lowBudget (decide (k + 1 = n)) j) { s with
        shreg := v, bitcnt := 8, sclOut := false, sdaOut := decide (k + 1 = n), sink := Memory.write s.sink k v
        loc := { s.loc with bit := v.getLsbD 0 }, env := { s.env with scl := vs, poll := rs, sda := bs } } := by
  rw [receiveFrame, ackCell_of_lt hk]
  exact (runs_receiveByte i k v hsda).append (runs_writeCell i (fun _ _ _ => rfl) hscl hpoll)

/-! ### All frames -/

/-- The events of the frames of the bytes `data`, the first of `n`. -/
def readFrames (hb lb : Tick) (n : Nat) (data : List Byte) (ks : List Nat) : List Event :=
  (List.zipWith (fun (c : Byte × Nat) k => receivedCells hb lb c.1 ++ drivenCell hb lb (decide (c.2 + 1 = n)) k)
    data.zipIdx ks).flatten

theorem readFrames_concat (hb lb : Tick) (n : Nat) {data : List Byte} {ks : List Nat} (h : ks.length = data.length)
    (v : Byte) (k : Nat) : readFrames hb lb n (data ++ [v]) (ks ++ [k]) =
      readFrames hb lb n data ks ++ (receivedCells hb lb v ++ drivenCell hb lb (decide (data.length + 1 = n)) k) := by
  rw [readFrames, List.zipIdx_append, List.zipWith_append (by simp [h])]
  simp [readFrames]

/-- READ's block after the bytes `data`, the first of `n`, but for the environment and the trace. -/
def afterFrames (n : Nat) (data : List Byte) (s : State) : State :=
  { s with
    sclOut := data.foldl (fun _ _ => false) s.sclOut
    sdaOut := data.foldl (fun _ _ => decide (data.length = n)) s.sdaOut
    shreg := data.foldl (fun _ v => v) s.shreg
    bitcnt := data.foldl (fun _ _ => 8) s.bitcnt
    sink := Memory.ofBytes data
    loc := { s.loc with bit := data.foldl (fun _ v => v.getLsbD 0) s.loc.bit } }

theorem afterFrames_concat (n : Nat) (data : List Byte) (v : Byte) (s : State) :
    afterFrames n (data ++ [v]) s = { s with
      shreg := v, bitcnt := 8, sclOut := false, sdaOut := decide (data.length + 1 = n)
      sink := Memory.write (Memory.ofBytes data) data.length v, loc := { s.loc with bit := v.getLsbD 0 } } := by
  simp [afterFrames, Memory.write_ofBytes]

theorem runs_receiveFrames (i : Instr) {n : Nat} {data : List Byte} {ks : List Nat} (hlen : ks.length = data.length)
    (hn : data.length ≤ n) {vs bs : List Bit} {rs : List PollAnswer} {s : State}
    (hscl : s.env.scl = sclAnswers ks ++ vs) (hpoll : s.env.poll = pollsOk ks.sum ++ rs)
    (hsda : s.env.sda = data.flatMap wireBits ++ bs) :
    Runs i { s with sink := [] } ((List.range data.length).flatMap (receiveFrame n)) (cellHolds (9 * data.length) s)
      (readFrames s.highBudget s.lowBudget n data ks)
      { afterFrames n data s with env := { s.env with scl := vs, poll := rs, sda := bs } } := by
  induction data using List.reverseRecOn generalizing ks vs bs rs with
  | nil =>
    obtain rfl : ks = [] := List.length_eq_zero_iff.mp hlen
    obtain rfl : s.env.scl = vs := hscl
    obtain rfl : s.env.poll = rs := hpoll
    obtain rfl : s.env.sda = bs := hsda
    exact Runs.nil i { s with sink := [] }
  | append_singleton data v ih =>
    obtain ⟨ks, k, rfl⟩ : ∃ ks' k, ks = ks' ++ [k] :=
      (List.eq_nil_or_concat' ks).resolve_left (by rintro rfl; simp at hlen)
    have hlen : ks.length = data.length := by simpa using hlen
    have hlt : data.length < n := by simpa using hn
    have hscl : s.env.scl = sclAnswers ks ++ (List.replicate k false ++ true :: vs) := by
      simpa [sclAnswers] using hscl
    have hpoll : s.env.poll = pollsOk ks.sum ++ (pollsOk k ++ rs) := by
      rw [hpoll, List.sum_append, List.sum_singleton, pollsOk_add, List.append_assoc]
    have hsda : s.env.sda = data.flatMap wireBits ++ (wireBits v ++ bs) := by simpa using hsda
    have hframe := (ih hlen hlt.le hscl hpoll hsda).append (runs_receiveFrame i hlt v rfl rfl rfl)
    rw [afterFrames_concat, readFrames_concat _ _ _ hlen, List.length_append, List.length_singleton, List.range_succ,
      List.flatMap_append, List.flatMap_singleton, Nat.mul_add, cellHolds_add]
    exact hframe

/-- READ's program around the acknowledge cell of byte `k`. -/
theorem readProgram_split {n k : Nat} (hk : k < n) : ∃ post, readProgram n =
    ((List.range k).flatMap (receiveFrame n) ++ (readByteProgram ++ [.storeSink k])) ++
      (writeCell (.set .sda (decide (k + 1 = n))) ++ post) := by
  obtain ⟨r, rfl⟩ := Nat.exists_eq_add_of_le (Nat.succ_le_of_lt hk)
  refine ⟨((List.range r).map (k + 1 + ·)).flatMap (receiveFrame (k + 1 + r)), ?_⟩
  rw [readProgram_eq, List.range_add, List.range_succ, ← ackCell_of_lt hk]
  simp [receiveFrame]

/-- Settles O29: all frames by `runs_receiveFrames`, and `Runs.aborts` in the acknowledge cell after `data` and `v`. -/
theorem readAcksAllButTheLast : Obligations.ReadAcksAllButTheLast := by
  intro s n data ks vs bs rs hlen frames
  refine ⟨fun hn hscl hpoll hsda hclk => ?_, fun v k e hn hscl hpoll hsda hclk => ?_⟩
  · subst hn
    obtain rfl | ⟨init, v, rfl⟩ := List.eq_nil_or_concat' data
    · obtain rfl : ks = [] := List.length_eq_zero_iff.mp hlen
      obtain rfl : s.env.scl = vs := hscl
      obtain rfl : s.env.poll = rs := hpoll
      obtain rfl : s.env.sda = bs := hsda
      exact ⟨{ s with sink := [], ret := some .ok, pos := .idle }, rfl, (List.append_nil _).symm, fun _ => rfl, rfl,
        fun _ => rfl, fun h => absurd rfl h⟩
    · obtain ⟨up, last, tr, htr, hrun⟩ := (runs_receiveFrames (.read (init ++ [v]).length)
        (s := { s with ret := none }) hlen le_rfl hscl hpoll hsda).finish hclk
      refine ⟨_, hrun, htr, fun j => Memory.read_ofBytes _ j, rfl, fun h => ?_, fun _ => ?_⟩
      · simp at h
      · simp [afterFrames, State.timed]
  · have hsda : s.env.sda = data.flatMap wireBits ++ (wireBits v ++ bs) := by simpa using hsda
    have hruns := (runs_receiveFrames (.read n) (s := { s with ret := none }) hlen hn.le hscl hpoll hsda).append
      (runs_receiveByte (.read n) data.length v rfl)
    obtain ⟨post, hpost⟩ := readProgram_split hn
    obtain ⟨up, last, tr, htr, hrun⟩ := hruns.aborts (d := .set .sda (decide (data.length + 1 = n)))
      (b := decide (data.length + 1 = n)) post rfl (fun _ _ _ => rfl) rfl rfl (cellHolds_add _ _ _ ▸ hclk)
    refine ⟨up, last, tr, Memory.write (Memory.ofBytes data) data.length v, ?_, fun j => ?_, ?_⟩
    · rw [htr, ← List.append_assoc]; rfl
    · rw [Memory.write_ofBytes, Memory.read_ofBytes]
    · exact (congrArg (runMicros _ · _) hpost).trans hrun

end Sys2Proof.Machine
end

section
/-!
PROOFS. The sequencer's step and TRANSACTION's two ends (R180 to R182, R190): what a step does once its poll has an answer; the
entry of a transaction; and what a step can do to `STATE` when it is done.
-/

namespace Sys2Proof.Machine

/-! ### A step with its poll answered -/

theorem takePoll_of_cons {s : State} {r : PollAnswer} {rs : List PollAnswer} (h : s.env.poll = r :: rs) :
    takePoll s = some (r, { s with env := { s.env with poll := rs }, trace := s.trace ++ [.poll r] }) := by
  simp [takePoll, h, emit]

/-- Between operations and while it waits for its poll, a transaction not done is at the head of a sequencer step (R182). -/
theorem step_sequencer {s : State} (hst : s.seqState ≠ .done) (hport : s.port = none)
    (hpos : s.pos = .idle ∨ s.pos = .polling) (hpoll : s.env.poll ≠ []) : step s = runTurn (sequencerTurn s) := by
  rcases hpos with hpos | hpos
  · simp [step_eq, nextTurn, hport, hpos, hst]
  · simp [step_eq, nextTurn, hport, hpos, feed_poll_of_ne_nil hpoll]

theorem SeqState.stops_iff (st : SeqState) : st.stops = true ↔ st = .sendStop ∨ st = .busError := by
  cases st <;> simp [SeqState.stops]

/-- Settles O15: `sequencerTurn` on the answer that the poll takes. -/
theorem sequencerStepPollsThenActs : Obligations.SequencerStepPollsThenActs := by
  intro s r rs hst hport hpos hpoll s1
  rw [step_sequencer hst hport hpos (by simp [hpoll]), sequencerTurn, takePoll_of_cons hpoll]
  refine ⟨?_, ?_⟩
  · rintro rfl
    rfl
  · rintro e rfl latched
    rw [← SeqState.stops_iff]
    refine ⟨fun hstops => ?_, fun hstops => ?_⟩ <;> simp only [pollFailed, hstops, if_true] <;> rfl

/-! ### The entry -/

/-- The state after TRANSACTION's entry (R180, R181). -/
def entered (addr : Address) (wlen : Nat) (wbuf : List Byte) (rlen : Nat) (s : State) : State :=
  { s with
    addr := addr, wlen := wlen, rlen := rlen, wcur := 0, rcur := 0, err := .none, seqState := .start
    wbuf := Memory.ofBytes wbuf, rbuf := [], inTxn := true, reply := none, txnEnd := none }

/-- On an idle, configured block TRANSACTION with lengths that fit is accepted (R181). -/
theorem exec_transaction_accepted {addr : Address} {wlen : Nat} {wbuf : List Byte} {rlen : Nat} {s : State}
    (hidle : s.isIdle = true) (hconf : s.configured = true) (hwlen : wlen < 2 ^ s.lenW) (hrlen : rlen < 2 ^ s.lenW) :
    exec (.transaction addr wlen wbuf rlen) s = .next (entered addr wlen wbuf rlen s) := by
  have hfits : (lengthFits s wlen && lengthFits s rlen) = true := by simp [hwlen, hrlen]
  simp [exec, execTransaction, hidle, hconf, hfits, entered]

/-- A TRANSACTION that is not refused has done its entry (R181, R247; log 18). -/
theorem exec_transaction_next {addr : Address} {wlen : Nat} {wbuf : List Byte} {rlen : Nat} {s t : State}
    (h : exec (.transaction addr wlen wbuf rlen) s = .next t) : t = entered addr wlen wbuf rlen s := by
  simp only [exec, execTransaction] at h
  split at h
  · cases h
  · split at h
    · cases h
    · split at h
      · cases h
      · exact (Host.Outcome.next.inj h).symm

/-- Settles O11: an accepted entry by `exec_transaction_accepted`, and the test of `CONFIGURED`. -/
theorem transactionEntry : Obligations.TransactionEntry := by
  intro s addr wlen wbuf rlen hidle
  refine ⟨fun hconf hwlen hrlen => ⟨Memory.ofBytes wbuf, Memory.read_ofBytes wbuf, ?_⟩, fun hconf => ?_⟩
  · exact exec_transaction_accepted hidle hconf hwlen hrlen
  · simp [exec, execTransaction, hidle, hconf]

/-! ### `STATE` at done -/

theorem exec_stDone (s : State) : exec .stDone s = .next (if s.inTxn then returnToHost s else s) := rfl

/-- A transaction in progress at done returns to the host, the callback not polled (R190). -/
theorem step_returns {s : State} (hst : s.seqState = .done) (htxn : s.inTxn = true) (hpos : s.pos = .idle)
    (hport : s.port = none) : step s = exec .stDone s := by
  simp [step, nextTurn, hport, hpos, hst, htxn]

/-- CONFIGURE leaves `STATE` alone (R120). -/
theorem exec_configure_seqState {rate : Nat} {s t : State} (h : exec (.configure rate) s = .next t) :
    t.seqState = s.seqState := by
  obtain rfl | hrun := exec_configure_cases h
  · rfl
  · obtain ⟨w, todo, hwait⟩ | ⟨t0, t1, t2, t3, t4, t5, rest, hdone⟩ := runMicros_configureProgram (.configure rate)
      (highTicksFor s rate) (lowTicksFor s rate) { s with reply := none }
    · obtain rfl : _ = t := Host.Outcome.next.inj (hwait.symm.trans hrun)
      rfl
    · obtain rfl : _ = t := Host.Outcome.next.inj (hdone.symm.trans hrun)
      rw [measured_eq]
      rfl

/-- Taking the host's command from the port or the queue leaves the block as it is (R72). -/
theorem Taken.unchanged {s s0 : State} {w : OpWord} (h : Taken s w s0) :
    s0.seqState = s.seqState ∧ s0.trace = s.trace := by
  cases h <;> exact ⟨rfl, rfl⟩

/-- The host's commands (R98). -/
theorem Instr.opClass_host {i : Instr} (h : i.opClass = .host) :
    (∃ rate, i = .configure rate) ∨ ∃ addr wlen wbuf rlen, i = .transaction addr wlen wbuf rlen := by
  cases i with
  | configure rate => exact .inl ⟨rate, rfl⟩
  | transaction addr wlen wbuf rlen => exact .inr ⟨addr, wlen, wbuf, rlen, rfl⟩
  | _ => cases h

/-- The head of a sequencer step is no state between operations at done (R180). -/
theorem AtPoll.not_done {s s0 : State} (h : AtPoll s s0) (hpos : s.pos = .idle) : s.seqState ≠ .done := by
  cases h with
  | head _ hst => exact hst
  | answered hpolling => simp [hpos] at hpolling

/-- From done a step leads to done or is a transaction's entry (R181, R190). -/
theorem step_done {s t : State} (hst : s.seqState = .done) (hpos : s.pos = .idle) (h : step s = .next t) :
    t.seqState = .done ∨ (t.seqState = .start ∧ s.inTxn = false ∧ t.inTxn = true ∧ t.trace = s.trace) := by
  cases step_cases h with
  | resume i todo hrunning => simp [hpos] at hrunning
  | perform w i hperform => simp [hpos] at hperform
  | pollWaits s0 hs | pollOk s0 s1 hs | pollFailsActs s0 s1 e hs | pollFailsSkips s0 s1 e hs =>
    exact absurd hst (hs.not_done hpos)
  | returns _ _ _ ht => exact .inl (ht ▸ hst)
  | rests _ ht => exact .inl (ht ▸ hst)
  | command w s0 i hidle hs hdec hcls hwf hexec =>
    obtain ⟨hseq, htrace⟩ := hs.unchanged
    obtain ⟨rate, rfl⟩ | ⟨addr, wlen, wbuf, rlen, rfl⟩ := Instr.opClass_host hcls
    · exact .inl ((exec_configure_seqState hexec).trans (hseq.trans hst))
    · obtain rfl := exec_transaction_next hexec
      obtain ⟨-, -, htxn⟩ := State.isIdle_eq_true hidle
      exact .inr ⟨rfl, htxn, rfl, htrace⟩

/-- Settles O41: the return by `exec_stDone` and `step_returns`, the rest of the steps by `step_done`. -/
theorem doneReturnsTheError : Obligations.DoneReturnsTheError := by
  refine ⟨rfl, ?_⟩
  intro s returned
  have hreturns : s.inTxn = true → exec .stDone s = .next returned := fun htxn => by rw [exec_stDone, if_pos htxn]; rfl
  refine ⟨hreturns, fun htxn => ?_, fun hst htxn hpos hport => ?_, fun hst hpos t h => step_done hst hpos h⟩
  · rw [exec_stDone, htxn]; rfl
  · rw [step_returns hst htxn hpos hport, hreturns htxn]

end Sys2Proof.Machine
end

section
/-!
PROOFS. Changing the operation around the same wire-level program (R154, R157, R185, R186): what the program does, it reads off and
writes to the part `Wire` of the state, so WRITE_BYTE's own run says what the same program does inside a sequencer state.
-/

namespace Sys2Proof.Machine

/-! ### Where a part goes on, the operation's name does not matter -/

theorem stretchFlow_go_instr {i : Instr} (i' : Instr) {st : Stretch} {t : State} (h : stretchFlow i st = .go t) :
    stretchFlow i' st = .go t := by
  cases st with
  | released s => exact h
  | waitScl | waitPoll | aborted => cases h

theorem runMicro_go_instr {i : Instr} (i' : Instr) {m : Micro} {s t : State} (h : runMicro i m s = .go t) :
    runMicro i' m s = .go t := by
  cases m with
  | stretch | stretchPoll => exact stretchFlow_go_instr i' h
  | _ => exact h

/-- A program run through in one operation is run through in every operation. -/
theorem Passes.in_instr {i : Instr} (i' : Instr) {ms : List Micro} {s t : State} (h : Passes i ms s t) :
    Passes i' ms s t := by
  induction ms generalizing s with
  | nil => exact h
  | cons m ms ih =>
    obtain ⟨s1, hgo, htail⟩ := h
    exact .cons (runMicro_go_instr i' hgo) (ih htail)

/-- A program that is such a part ends in one and the same state in every operation, but for what the operation returns. -/
theorem Runs.finish_in {i : Instr} {ms : List Micro} {ns : List Tick} {es : List Event} {s t : State}
    (h : Runs i s ms ns es t) (hclk : clockServes ns s.env.up s.env.lastUp = true) :
    ∃ up last tr, shown tr = shown s.trace ++ es ∧
      ∀ i', Machine.runMicros i' ms s = .next (Machine.finish i' (t.timed up last tr)) := by
  obtain ⟨up, last, tr, hpass, htr, -⟩ := h s.env.up s.env.lastUp s.trace [] (by rwa [List.append_nil])
  exact ⟨up, last, tr, htr, fun i' => Passes.finish (hpass.in_instr i')⟩

/-! ### The wire-level micro-operations read and write the part `Wire` -/

/-- State `b` has what a wire-level micro-operation reads beside `Wire`: the two budgets, and RBUF's cursor for the acknowledge
bit (R152, R187). -/
def State.ReadsAs (b s : State) : Prop :=
  b.highBudget = s.highBudget ∧ b.lowBudget = s.lowBudget ∧ b.rcur = s.rcur ∧ b.rlen = s.rlen

/-- How a wire-level micro-operation ends, by what it leaves in `Wire`. -/
inductive WireFlow where
  /-- go on with the next -/
  | go (w : Wire)
  /-- wait at micro-operation `m` -/
  | wait (m : Micro) (w : Wire)
  /-- the callback failed -/
  | abort (e : TimeoutErr) (w : Wire)

/-- That end, in operation `i` and with `b` for the rest of the state. -/
def WireFlow.flow (i : Instr) (b : State) : WireFlow → Flow
  | .go w => .go (b.setWire w)
  | .wait m w => .wait m (b.setWire w)
  | .abort e w => .halt (Machine.abort i e (b.setWire w))

/-- SCL read 0 and a successful answer of the callback: the loop goes on (R152). -/
theorem stretchLoop_ok {vs : List Bit} {s : State} {rs : List PollAnswer} (hpoll : s.env.poll = .ok :: rs) :
    stretchLoop (false :: vs) s = stretchLoop vs { s with
      env := { s.env with scl := vs, poll := rs }, trace := s.trace ++ [.get .scl false, .poll .ok] } := by
  simp [stretchLoop, takePoll, emit, hpoll]

/-- SCL read 0 and a failing answer of the callback (R152, R156). -/
theorem stretchLoop_fail {vs : List Bit} {s : State} {e : TimeoutErr} {rs : List PollAnswer}
    (hpoll : s.env.poll = .fail e :: rs) :
    stretchLoop (false :: vs) s = .aborted e { s with
      env := { s.env with scl := vs, poll := rs }, trace := s.trace ++ [.get .scl false, .poll (.fail e)] } := by
  simp [stretchLoop, takePoll, emit, hpoll]

theorem stretchLoop_wireFlow (vs : List Bit) (w : Wire) :
    ∃ f : WireFlow, ∀ i (b : State), stretchFlow i (stretchLoop vs (b.setWire w)) = f.flow i b := by
  induction vs generalizing w with
  | nil => exact ⟨.wait .stretch w, fun _ _ => rfl⟩
  | cons v vs ih =>
    cases v with
    | true => exact ⟨.go { w with
        env := { w.env with scl := vs }, trace := w.trace ++ [.get .scl true] }, fun _ _ => rfl⟩
    | false =>
      cases hpoll : w.env.poll with
      | nil =>
        refine ⟨.wait .stretchPoll { w with
          env := { w.env with scl := vs }, trace := w.trace ++ [.get .scl false] }, fun i b => ?_⟩
        rw [stretchLoop_waitPoll vs _ hpoll]
        rfl
      | cons r rs =>
        cases r with
        | ok =>
          obtain ⟨f, hf⟩ := ih { w with
            env := { w.env with scl := vs, poll := rs }, trace := w.trace ++ [.get .scl false, .poll .ok] }
          refine ⟨f, fun i b => ?_⟩
          rw [stretchLoop_ok (s := b.setWire w) hpoll]
          exact hf i b
        | fail e =>
          refine ⟨.abort e { w with
            env := { w.env with scl := vs, poll := rs }, trace := w.trace ++ [.get .scl false, .poll (.fail e)] },
            fun i b => ?_⟩
          rw [stretchLoop_fail (s := b.setWire w) hpoll]
          rfl

theorem stretchPollLoop_wireFlow (w : Wire) :
    ∃ f : WireFlow, ∀ i (b : State), stretchFlow i (stretchPollLoop (b.setWire w)) = f.flow i b := by
  cases hpoll : w.env.poll with
  | nil =>
    refine ⟨.wait .stretchPoll w, fun i b => ?_⟩
    simp [stretchPollLoop, takePoll, hpoll, stretchFlow, WireFlow.flow]
  | cons r rs =>
    cases r with
    | ok =>
      obtain ⟨f, hf⟩ := stretchLoop_wireFlow w.env.scl { w with
        env := { w.env with poll := rs }, trace := w.trace ++ [.poll .ok] }
      refine ⟨f, fun i b => ?_⟩
      rw [stretchPollLoop_ok (s := b.setWire w) hpoll]
      exact hf i b
    | fail e =>
      refine ⟨.abort e { w with env := { w.env with poll := rs }, trace := w.trace ++ [.poll (.fail e)] },
        fun i b => ?_⟩
      rw [stretchPollLoop_fail (s := b.setWire w) hpoll]
      rfl

theorem delayFlow_wireFlow (n start : Tick) (w : Wire) :
    ∃ f : WireFlow, ∀ i (b : State), delayFlow n start (b.setWire w) = f.flow i b := by
  let w1 : Wire := { w with
    env := { w.env with
      up := (spin n start w.env.up w.env.lastUp).rest, lastUp := (spin n start w.env.up w.env.lastUp).last }
    trace := w.trace ++ (spin n start w.env.up w.env.lastUp).reads.map .uptime }
  cases hend : (spin n start w.env.up w.env.lastUp).ended with
  | true => exact ⟨.go w1, fun _ _ => if_pos hend⟩
  | false => exact ⟨.wait (.delayLoop n start) w1, fun _ _ => if_neg (by simp [hend])⟩

theorem delayStartFlow_wireFlow (n : Tick) (w : Wire) :
    ∃ f : WireFlow, ∀ i (b : State), delayStartFlow n (b.setWire w) = f.flow i b := by
  cases hup : w.env.up with
  | nil =>
    refine ⟨.wait (.delayStart n) w, fun i b => ?_⟩
    simp [delayStartFlow, takeUptime, hup, WireFlow.flow]
  | cons t ts =>
    obtain ⟨f, hf⟩ := delayFlow_wireFlow n (clockAnswer w.env.lastUp t) { w with
      env := { w.env with up := ts, lastUp := clockAnswer w.env.lastUp t }
      trace := w.trace ++ [.uptime (clockAnswer w.env.lastUp t)] }
    refine ⟨f, fun i b => ?_⟩
    simp only [delayStartFlow, takeUptime, State.setWire_env, hup]
    exact hf i b

theorem delayWhole_wireFlow (n : Tick) (w : Wire) :
    ∃ f : WireFlow, ∀ i (b : State), delayWhole n (b.setWire w) = f.flow i b :=
  delayStartFlow_wireFlow n { w with trace := w.trace ++ [.delay n] }

/-- A wire-level micro-operation does to `Wire` the same in every operation and whatever the rest of the state, as long as the
budgets and RBUF's cursor are the same (R150 to R156). -/
theorem runMicro_wireFlow {m : Micro} (hm : m.onWire = true) (s : State) (w : Wire) :
    ∃ f : WireFlow, ∀ i (b : State), b.ReadsAs s → runMicro i m (b.setWire w) = f.flow i b := by
  cases m with
  | set p v =>
    cases p with
    | scl => exact ⟨.go { w with sclOut := v, trace := w.trace ++ [.set .scl v] }, fun _ _ _ => rfl⟩
    | sda => exact ⟨.go { w with sdaOut := v, trace := w.trace ++ [.set .sda v] }, fun _ _ _ => rfl⟩
  | setMsb =>
    exact ⟨.go { w with sdaOut := msb w.shreg, trace := w.trace ++ [.set .sda (msb w.shreg)] }, fun _ _ _ => rfl⟩
  | setAck =>
    let bit := ackCell (decide (s.rcur < s.rlen))
    refine ⟨.go { w with sdaOut := bit, trace := w.trace ++ [.set .sda bit] }, ?_⟩
    rintro i b ⟨-, -, hrcur, hrlen⟩
    simp only [runMicro, State.setWire_rcur, State.setWire_rlen, hrcur, hrlen]
    rfl
  | stretch =>
    obtain ⟨f, hf⟩ := stretchLoop_wireFlow w.env.scl w
    exact ⟨f, fun i b _ => hf i b⟩
  | stretchPoll =>
    obtain ⟨f, hf⟩ := stretchPollLoop_wireFlow w
    exact ⟨f, fun i b _ => hf i b⟩
  | delay n =>
    obtain ⟨f, hf⟩ := delayWhole_wireFlow n w
    exact ⟨f, fun i b _ => hf i b⟩
  | delayHigh =>
    obtain ⟨f, hf⟩ := delayWhole_wireFlow s.highBudget w
    exact ⟨f, fun i b ⟨hhigh, _⟩ => (congrArg (delayWhole · _) hhigh).trans (hf i b)⟩
  | delayLow =>
    obtain ⟨f, hf⟩ := delayWhole_wireFlow s.lowBudget w
    exact ⟨f, fun i b ⟨_, hlow, _⟩ => (congrArg (delayWhole · _) hlow).trans (hf i b)⟩
  | delayStart n =>
    obtain ⟨f, hf⟩ := delayStartFlow_wireFlow n w
    exact ⟨f, fun i b _ => hf i b⟩
  | delayLoop n start =>
    obtain ⟨f, hf⟩ := delayFlow_wireFlow n start w
    exact ⟨f, fun i b _ => hf i b⟩
  | sample =>
    cases hsda : w.env.sda with
    | nil =>
      refine ⟨.wait .sample w, fun i b _ => ?_⟩
      simp [runMicro, takeSda, hsda, WireFlow.flow]
    | cons v vs =>
      refine ⟨.go { w with
        loc := { w.loc with bit := v }, env := { w.env with sda := vs }, trace := w.trace ++ [.get .sda v] },
        fun i b _ => ?_⟩
      simp only [runMicro, takeSda, State.setWire_env, hsda]
      rfl
  | loadByte v => exact ⟨.go { w with shreg := v, bitcnt := 0 }, fun _ _ _ => rfl⟩
  | shiftOut =>
    exact ⟨.go { w with shreg := shiftIn w.shreg false, bitcnt := w.bitcnt + 1 }, fun _ _ _ => rfl⟩
  | shiftIn =>
    exact ⟨.go { w with shreg := shiftIn w.shreg w.loc.bit, bitcnt := w.bitcnt + 1 }, fun _ _ _ => rfl⟩
  | latchAck => exact ⟨.go { w with ackbit := w.loc.bit }, fun _ _ _ => rfl⟩
  | failOnNack | storeSink | missingByte | storeRbuf | afterAddress | afterWrite | afterRead | goto | markUptime
  | lapUptime | lapPin | commit => cases hm

/-! ### Programs of them -/

/-- A wire-level program ends in one of three ways, whatever operation `i` it is part of, whatever `post` follows and whatever
the rest `b` of the state: it is run through, it waits, or its callback fails. -/
theorem runMicros_onWire {ms : List Micro} (hms : ∀ m ∈ ms, m.onWire = true) (s : State) (w : Wire) :
    (∃ w', ∀ i (b : State), b.ReadsAs s → Passes i ms (b.setWire w) (b.setWire w')) ∨
    (∃ todo w', ∀ i (b : State) post, b.ReadsAs s →
      runMicros i (ms ++ post) (b.setWire w) = .next { b.setWire w' with pos := .running i (todo ++ post) }) ∨
    ∃ e w', ∀ i (b : State) post, b.ReadsAs s →
      runMicros i (ms ++ post) (b.setWire w) = .next { abort i e (b.setWire w') with pos := .idle } := by
  induction ms generalizing w with
  | nil => exact .inl ⟨w, fun _ _ _ => rfl⟩
  | cons m ms ih =>
    obtain ⟨hm, hms⟩ := List.forall_mem_cons.mp hms
    obtain ⟨f, hf⟩ := runMicro_wireFlow hm s w
    cases f with
    | go w1 =>
      obtain ⟨w', h⟩ | ⟨todo, w', h⟩ | ⟨e, w', h⟩ := ih hms w1
      · exact .inl ⟨w', fun i b hb => .cons (hf i b hb) (h i b hb)⟩
      · exact .inr (.inl ⟨todo, w', fun i b post hb => (runMicros_go _ (hf i b hb)).trans (h i b post hb)⟩)
      · exact .inr (.inr ⟨e, w', fun i b post hb => (runMicros_go _ (hf i b hb)).trans (h i b post hb)⟩)
    | wait m' w1 => exact .inr (.inl ⟨m' :: ms, w1, fun i b post hb => runMicros_wait _ (hf i b hb)⟩)
    | abort e w1 => exact .inr (.inr ⟨e, w1, fun i b post hb => runMicros_halt _ (hf i b hb)⟩)

/-- A WRITE_BYTE that aborts raises `Timeout(e)` in a sequencer state that begins with it, whatever follows (R156, R185, R186). -/
theorem runMicros_writeByteProgram_raises {i : Instr} (hi : i.opClass = .seq) {s t : State} {v : Byte} {e : TimeoutErr}
    (post : List Micro) (h : exec (.writeByte v) s = .next t) (ht : t.ret = some (.abort e)) :
    runMicros i (writeByteProgram v ++ post) s =
      .next { t with ret := s.ret, err := latchError s.err (.timeout e), seqState := .busError } := by
  have hreads : ∀ r, State.ReadsAs { s with ret := r } s := fun _ => ⟨rfl, rfl, rfl, rfl⟩
  have hbyte : runMicros (.writeByte v) (writeByteProgram v ++ []) (State.setWire { s with ret := none } s.wire) =
    .next t := by rw [List.append_nil]; exact h
  obtain ⟨w, hpass⟩ | ⟨todo, w, hwait⟩ | ⟨e', w, habort⟩ := runMicros_onWire (writeByteProgram_onWire v) s s.wire
  · rw [(hpass _ _ (hreads none)).runMicros] at hbyte
    obtain rfl := Host.Outcome.next.inj hbyte
    simp [finish, returned] at ht
  · obtain rfl := Host.Outcome.next.inj ((hwait _ _ _ (hreads none)).symm.trans hbyte)
    simp at ht
  · obtain rfl := Host.Outcome.next.inj ((habort _ _ _ (hreads none)).symm.trans hbyte)
    obtain rfl : e' = e := by simpa [abort, Instr.opClass] using ht
    refine (habort i s post (hreads s.ret)).trans ?_
    simp only [abort, hi]
    rfl

end Sys2Proof.Machine
end

section
/-!
PROOFS. The sequencer's states (R183 to R189): each action is its wire-level program, of which `Runs` says what it does, then the
end that chooses the next `STATE`.
-/

namespace Sys2Proof.Machine

/-! ### START and STOP -/

theorem runs_goto {i : Instr} {ms : List Micro} {ns : List Tick} {es : List Event} {s t : State} (st : SeqState)
    (h : Runs i s ms ns es t) : Runs i s (ms ++ [.goto st]) ns es { t with seqState := st } :=
  h.append_silent fun _ _ _ => rfl

/-- Settles O35: one program, by `runs_startProgram`, which ends the same in both operations by `Runs.finish_in`. -/
theorem startStatesSendStart : Obligations.StartStatesSendStart := by
  intro s hclk
  obtain ⟨up, last, tr, htr, hrun⟩ := (runs_goto .writeAddress (runs_startProgram .stStart s)).finish_in hclk
  exact ⟨_, tr, up, last, htr, rfl, hrun .stStart, hrun .stRepeatedStart⟩

/-- Settles O40: one program, by `runs_stopProgram`, which ends the same in both operations by `Runs.finish_in`. -/
theorem stopStatesSendStop : Obligations.StopStatesSendStop := by
  intro s hclk
  obtain ⟨up, last, tr, htr, hrun⟩ := (runs_goto .done (runs_stopProgram .stSendStop s)).finish_in hclk
  exact ⟨_, tr, up, last, htr, rfl, hrun .stSendStop, hrun .stBusError⟩

/-! ### The ends of the actions -/

/-- The end of write_address, for both acknowledge bits (R185). -/
theorem afterAddress_eq (s : State) : afterAddress s = { s with
    err := if s.ackbit = true ∧ s.err = .none then .noSuchDevice else s.err
    seqState := if s.ackbit then .busError else successor s .write .read } := by
  cases hack : s.ackbit <;> simp [afterAddress, acknowledged, raise, latchError, hack]

/-- The end of write, for both acknowledge bits: `WCUR` advances in either case (R186). -/
theorem afterWrite_eq (s : State) : afterWrite s = { s with
    wcur := s.wcur + 1
    err := if s.ackbit = true ∧ s.err = .none then .ioError else s.err
    seqState :=
      if s.ackbit then .busError else successor { s with wcur := s.wcur + 1 } .write .repeatedStart } := by
  cases hack : s.ackbit <;> simp [afterWrite, acknowledged, raise, latchError, hack]

/-- The end of read: more bytes are wanted or not (R187). -/
theorem afterRead_eq (s : State) :
    afterRead s = { s with seqState := if decide (s.rcur < s.rlen) then .read else .sendStop } := by
  simp only [afterRead, decide_eq_true_eq]

/-! ### write_address -/

/-- The address byte with `RW` by whether WBUF is exhausted (R90, R185). -/
theorem addressByte_rwBit (s : State) :
    addressByte s.addr (rwBit s) = s.addr ++ (if s.wcur < s.wlen then 0#1 else 1#1) := by
  by_cases h : s.wcur < s.wlen <;> simp [addressByte, rwBit, h]

theorem exec_stWriteAddress (s : State) : exec .stWriteAddress s = runMicros .stWriteAddress
    (writeByteProgram (s.addr ++ (if s.wcur < s.wlen then 0#1 else 1#1)) ++ [.afterAddress]) s := by
  rw [← addressByte_rwBit]
  rfl

/-- Settles O36: the frame by `runs_writeByteProgram` and its end by `afterAddress_eq`; an abort by
`runMicros_writeByteProgram_raises`. -/
theorem writeAddressStateChoosesTheSuccessor : Obligations.WriteAddressStateChoosesTheSuccessor := by
  intro s byte
  rw [exec_stWriteAddress]
  refine ⟨fun ks ack vs bs rs hks hscl hpoll hsda hclk => ?_, fun t e h ht => ?_⟩
  · obtain ⟨up, last, tr, htr, hrun⟩ :=
      (runs_writeByteProgram .stWriteAddress byte hks hscl hpoll hsda).runMicros hclk
    refine ⟨up, last, tr, htr, (hrun [.afterAddress]).trans ?_⟩
    exact congrArg (fun u => Host.Outcome.next (finish .stWriteAddress u)) (afterAddress_eq _)
  · exact runMicros_writeByteProgram_raises rfl _ h ht

/-! ### write -/

/-- With a byte at `WCUR` the action of write sends it (R62, R186). -/
theorem exec_stWrite {s : State} {v : Byte} (hlt : s.wcur < s.wlen) (hv : Memory.read s.wbuf s.wcur = some v) :
    exec .stWrite s = runMicros .stWrite (writeByteProgram v ++ [.afterWrite])
      { s with trace := s.trace ++ [.readWbuf s.wcur v] } := by
  have hread : memReadWbuf s = some v := (if_pos hlt).trans hv
  simp only [exec, execStWrite, hread, emit]

/-- Settles O37: the frame by `runs_writeByteProgram` and its end by `afterWrite_eq`; an abort by
`runMicros_writeByteProgram_raises`. -/
theorem writeStateSendsOneByte : Obligations.WriteStateSendsOneByte := by
  intro s v hlt hv
  rw [exec_stWrite hlt hv]
  refine ⟨fun ks ack vs bs rs hks hscl hpoll hsda hclk => ?_, fun t e h ht => ?_⟩
  · obtain ⟨up, last, tr, htr, hrun⟩ := (runs_writeByteProgram .stWrite v
      (s := { s with trace := s.trace ++ [.readWbuf s.wcur v] }) hks hscl hpoll hsda).runMicros hclk
    refine ⟨up, last, tr, by simpa using htr, (hrun [.afterWrite]).trans ?_⟩
    exact congrArg (fun u => Host.Outcome.next (finish .stWrite u)) (afterWrite_eq _)
  · exact runMicros_writeByteProgram_raises rfl _ h ht

/-! ### read -/

/-- The store of the received byte, within RBUF (R63, R187). -/
theorem runs_storeRbuf (i : Instr) {s : State} (hlt : s.rcur < s.rlen) :
    Runs i s [.storeRbuf] [] [.wroteRbuf s.rcur s.shreg]
      { s with rbuf := Memory.write s.rbuf s.rcur s.shreg, rcur := s.rcur + 1 } := by
  intro up last tr rest hclk
  have hstore : memWriteRbuf s.shreg (s.timed up last tr) =
      some (emit (.wroteRbuf s.rcur s.shreg)
        { s.timed up last tr with rbuf := Memory.write s.rbuf s.rcur s.shreg }) := if_pos hlt
  have hgo : runMicro i .storeRbuf (s.timed up last tr) = .go (State.timed
      { s with rbuf := Memory.write s.rbuf s.rcur s.shreg, rcur := s.rcur + 1 } up last
      (tr ++ [.wroteRbuf s.rcur s.shreg])) := by
    rw [runMicro, show (s.timed up last tr).shreg = s.shreg from rfl, hstore]
    rfl
  exact ⟨up, last, _, .cons hgo rfl, by simp, hclk⟩

/-- The action of read, cut before its acknowledge cell (R187). -/
theorem exec_stRead (s : State) : exec .stRead s = runMicros .stRead
    ((readByteProgram ++ [.storeRbuf]) ++ (writeCell .setAck ++ [.afterRead])) s := by
  rw [← List.append_assoc]
  rfl

/-- The action of read up to its acknowledge cell (R187). -/
theorem runs_receiveRbuf (i : Instr) (v : Byte) {bs : List Bit} {s : State} (hlt : s.rcur < s.rlen)
    (hsda : s.env.sda = wireBits v ++ bs) :
    Runs i s (readByteProgram ++ [.storeRbuf]) (cellHolds 8 s)
      (receivedCells s.highBudget s.lowBudget v ++ [.wroteRbuf s.rcur v]) { s with
        rbuf := Memory.write s.rbuf s.rcur v, rcur := s.rcur + 1, shreg := v, bitcnt := 8, sclOut := false
        sdaOut := true, loc := { s.loc with bit := v.getLsbD 0 }, env := { s.env with sda := bs } } :=
  (runs_readByteProgram i v hsda).append (runs_storeRbuf i hlt)

/-- A driven cell of a sequencer state whose callback fails after `k` stretched polls (R152, R156). -/
theorem runMicros_writeCell_raises {i : Instr} {d : Micro} {b : Bit} {k : Nat} {e : TimeoutErr} {vs : List Bit}
    {rs : List PollAnswer} {s : State} (post : List Micro) (hi : i.opClass = .seq)
    (hd : runMicro i d s = .go (pinSet .sda b s)) (hscl : s.env.scl = List.replicate k false ++ false :: vs)
    (hpoll : s.env.poll = pollsOk k ++ .fail e :: rs) :
    runMicros i (writeCell d ++ post) s = .next { s with
      sclOut := true, sdaOut := b, pos := .idle, env := { s.env with scl := vs, poll := rs }
      err := if s.err = .none then .timeout e else s.err, seqState := .busError
      trace := s.trace ++ [.set .sda b, .set .scl true] ++ stretchEvents k ++ [.get .scl false, .poll (.fail e)] } := by
  obtain ⟨hloop, -⟩ := abortEndsTheOperation (pinSet .scl true (pinSet .sda b s)) i
    ([.delayHigh, .set .scl false, .delayLow] ++ post) k e vs rs hpoll
  obtain ⟨hraise, -, -⟩ := hloop hscl
  calc runMicros i (writeCell d ++ post) s
      = runMicros i (.stretch :: ([.delayHigh, .set .scl false, .delayLow] ++ post))
          (pinSet .scl true (pinSet .sda b s)) := (runMicros_go _ hd).trans (runMicros_go _ rfl)
    _ = _ := hraise hi
    _ = _ := by simp [pinSet, emit]

/-- Such a cell after a part that has been run through. -/
theorem Runs.raises {i : Instr} {ms : List Micro} {d : Micro} {ns : List Tick} {es : List Event} {s t : State} {b : Bit}
    {k : Nat} {e : TimeoutErr} {vs : List Bit} {rs : List PollAnswer} (h : Runs i s ms ns es t) (post : List Micro)
    (hi : i.opClass = .seq)
    (hd : ∀ up last tr, runMicro i d (t.timed up last tr) = .go (pinSet .sda b (t.timed up last tr)))
    (hscl : t.env.scl = List.replicate k false ++ false :: vs) (hpoll : t.env.poll = pollsOk k ++ .fail e :: rs)
    (hclk : clockServes ns s.env.up s.env.lastUp = true) :
    ∃ up last tr, shown tr = shown s.trace ++ es ++ [.set .sda b, .set .scl true] ++ stretchEvents k ++
        [.get .scl false, .poll (.fail e)] ∧
      Machine.runMicros i (ms ++ (writeCell d ++ post)) s = .next { t with
        sclOut := true, sdaOut := b, pos := .idle, trace := tr
        err := if t.err = .none then .timeout e else t.err, seqState := .busError
        env := { t.env with scl := vs, poll := rs, up := up, lastUp := last } } := by
  obtain ⟨up, last, tr, htr, hrun⟩ := h.runMicros hclk
  refine ⟨up, last, tr ++ [.set .sda b, .set .scl true] ++ stretchEvents k ++ [.get .scl false, .poll (.fail e)],
    by simp [htr, shown_stretchEvents], ?_⟩
  exact (hrun _).trans (runMicros_writeCell_raises post hi (hd up last tr) hscl hpoll)

/-- Settles O38: the byte by `runs_receiveRbuf`, then the acknowledge cell by `runs_writeCell` or
`runMicros_writeCell_raises`; the store by `Memory.read_write_same` and `Memory.read_write_other`. -/
theorem readStateStoresOneByteAndAcknowledges : Obligations.ReadStateStoresOneByteAndAcknowledges := by
  intro s v k vs bs rs hlt hsda more stored received
  have hstored : stored (Memory.write s.rbuf s.rcur v) :=
    ⟨Memory.read_write_same .., fun a ha => Memory.read_write_other _ _ _ _ ha⟩
  have hreceive := runs_receiveRbuf .stRead v hlt hsda
  refine ⟨fun hscl hpoll hclk => ?_, fun e hscl hpoll hclk => ?_⟩
  · obtain ⟨up, last, tr, htr, hrun⟩ := (hreceive.append (runs_writeCell .stRead (d := .setAck) (b := !more)
      (fun _ _ _ => rfl) hscl hpoll)).runMicros hclk
    refine ⟨up, last, tr, _, hstored, by simpa [received] using htr, ?_⟩
    rw [exec_stRead, ← List.append_assoc, hrun]
    exact congrArg (fun u => Host.Outcome.next (finish .stRead u)) (afterRead_eq _)
  · obtain ⟨up, last, tr, htr, hrun⟩ := hreceive.raises (d := .setAck) (b := !more) [.afterRead] rfl
      (fun _ _ _ => rfl) hscl hpoll hclk
    exact ⟨up, last, tr, _, hstored, by simpa [received] using htr, (exec_stRead s).trans hrun⟩

end Sys2Proof.Machine
end

section
/-!
PROOFS. Decoding and encoding (R98, R106): each class's decoder accepts an operation exactly at its index and with its operands in
the lanes, and so does the decoder.
-/

namespace Sys2Proof

open Sys2Proof.Machine

theorem decodeHost_ok_iff {n : Nat} {a : OpArgs} {i : Instr} :
    decodeHost n a = .ok i ↔ i.opClass = .host ∧ n = i.op.toNat % 16 ∧ lanesMatch i a := by
  constructor
  · intro h
    unfold decodeHost at h
    split at h <;> cases h <;> simp [Instr.opClass, Instr.op, lanesMatch]
  · rintro ⟨hclass, rfl, hlanes⟩
    cases i with
    | configure => obtain rfl := hlanes; simp [decodeHost, Instr.op]
    | transaction => obtain ⟨rfl, rfl, rfl, rfl⟩ := hlanes; simp [decodeHost, Instr.op]
    | _ => cases hclass

theorem decodeSeq_ok_iff {n : Nat} (a : OpArgs) {i : Instr} :
    decodeSeq n = .ok i ↔ i.opClass = .seq ∧ n = i.op.toNat % 16 ∧ lanesMatch i a := by
  constructor
  · intro h
    unfold decodeSeq at h
    split at h <;> cases h <;> simp [Instr.opClass, Instr.op, lanesMatch]
  · rintro ⟨hclass, rfl, -⟩
    cases i with
    | stStart | stRepeatedStart | stWriteAddress | stWrite | stRead | stSendStop | stBusError | stDone => rfl
    | _ => cases hclass

theorem decodeEng_ok_iff {n : Nat} {a : OpArgs} {i : Instr} :
    decodeEng n a = .ok i ↔ i.opClass = .eng ∧ n = i.op.toNat % 16 ∧ lanesMatch i a := by
  constructor
  · intro h
    unfold decodeEng at h
    split at h <;> cases h <;> simp [Instr.opClass, Instr.op, lanesMatch]
  · rintro ⟨hclass, rfl, hlanes⟩
    cases i with
    | sendStart | sendStop | readBit | readByte => rfl
    | delay | writeBit | writeByte | writeAddress | read => obtain rfl := hlanes; simp [decodeEng, Instr.op]
    | write => obtain ⟨rfl, rfl⟩ := hlanes; simp [decodeEng, Instr.op]
    | _ => cases hclass

theorem decodeCal_ok_iff {n : Nat} {a : OpArgs} {i : Instr} :
    decodeCal n a = .ok i ↔ i.opClass = .cal ∧ n = i.op.toNat % 16 ∧ lanesMatch i a := by
  constructor
  · intro h
    unfold decodeCal at h
    split at h <;> cases h <;> simp [Instr.opClass, Instr.op, lanesMatch]
  · rintro ⟨hclass, rfl, hlanes⟩
    cases i with
    | calUptime | calRestore => rfl
    | calPin => obtain ⟨rfl, rfl⟩ := hlanes; simp [decodeCal, Instr.op]
    | calBudget => obtain ⟨rfl, rfl, rfl, rfl, rfl⟩ := hlanes; simp [decodeCal, Instr.op]
    | _ => cases hclass

/-- The class stands above the index in an operation's code (R98). -/
theorem Instr.op_toNat_div (i : Instr) : i.op.toNat / 16 = i.opClass.code.toNat := by
  cases i <;> simp [Instr.op, Instr.opClass, OpClass.code]

/-- A byte lane is an operation's code when its class and its index are (R98). -/
theorem op_eq_iff (b : Byte) (i : Instr) :
    b = i.op ↔ b.toNat / 16 = i.opClass.code.toNat ∧ b.toNat % 16 = i.op.toNat % 16 := by
  rw [← BitVec.toNat_inj, ← i.op_toNat_div]
  omega

theorem OpClass.code_toNat_inj {c d : OpClass} : c.code.toNat = d.code.toNat ↔ c = d := by
  cases c <;> cases d <;> decide

/-- A word is an operation exactly when it carries its code and, in the lanes it has, its operands (R98, R106). -/
theorem decode_ok_iff (w : OpWord) (i : Instr) : decode w = .ok i ↔ w.op = i.op ∧ lanesMatch i w.args := by
  have hclass (c : OpClass) (hc : w.op.toNat / 16 = c.code.toNat) :
      (i.opClass = c ∧ w.op.toNat % 16 = i.op.toNat % 16 ∧ lanesMatch i w.args) ↔ w.op = i.op ∧ lanesMatch i w.args := by
    rw [op_eq_iff, hc, OpClass.code_toNat_inj, eq_comm, and_assoc]
  match hw : w.op.toNat / 16 with
  | 0 => simpa only [decode_eq, hw] using decodeHost_ok_iff.trans (hclass .host hw)
  | 1 => simpa only [decode_eq, hw] using (decodeSeq_ok_iff w.args).trans (hclass .seq hw)
  | 2 => simpa only [decode_eq, hw] using decodeEng_ok_iff.trans (hclass .eng hw)
  | 3 => simpa only [decode_eq, hw] using decodeCal_ok_iff.trans (hclass .cal hw)
  | n + 4 =>
    have hlt := i.opClass.code.isLt
    rw [decode_notSixBits w (by omega), op_eq_iff, hw]
    exact iff_of_false (by simp) (by omega)

/-- An operation's word carries its operands. -/
theorem lanesMatch_args (i : Instr) : lanesMatch i i.args := by cases i <;> simp [lanesMatch, Instr.args]

theorem decode_encode (i : Instr) : decode (encode i) = .ok i := (decode_ok_iff _ _).mpr ⟨rfl, lanesMatch_args i⟩

/-- Settles O1, by `decode_encode` and `decode_ok_iff`. -/
theorem decodeAndEncodeAgree : Obligations.DecodeAndEncodeAgree := ⟨decode_encode, decode_ok_iff⟩

/-- Settles O3: each word is the encoding of its operation. -/
theorem wordsOfTheTableDecode : Obligations.WordsOfTheTableDecode :=
  ⟨decode_encode (.configure 100000), decode_encode (.transaction 0x3C 1 [0xAB] 2), decode_encode .stWriteAddress,
    decode_encode .stDone, decode_encode (.writeBit true), decode_encode (.read 3), decode_encode (.calPin .sda 3)⟩

/-- A word of the host's two codes is of class HOST, and no other word is (R98). -/
theorem Instr.op_of_opClass_host {i : Instr} (h : i.opClass = .host) : i.op = 0b000000 ∨ i.op = 0b000001 := by
  obtain ⟨rate, rfl⟩ | ⟨addr, wlen, wbuf, rlen, rfl⟩ := Machine.Instr.opClass_host h
  · exact .inl rfl
  · exact .inr rfl

end Sys2Proof
end

section
/-!
PROOFS. Construction, the host's commands and the step's choice of an operation (R32, R44, R99, R101, R182, R247, R249): each by the
equations of `step` at the position in question.
-/

namespace Sys2Proof.Machine

/-! ### Construction -/

/-- Settles O5: the fields of `State.constructed`. -/
theorem resetLeavesTheValuesTheSpecGives : Obligations.ResetLeavesTheValuesTheSpecGives :=
  ⟨rfl, rfl, rfl, rfl, rfl, rfl, rfl, rfl, rfl⟩

/-- Settles O6: the accepted parameters by `construct_next_iff`, the others by the two tests of construction. -/
theorem constructionTakesExactlyTheLegalParameters : Obligations.ConstructionTakesExactlyTheLegalParameters := by
  intro fClk num den lenW
  have hduty : (den = 0 ∨ num > den) ↔ ¬(0 < den ∧ num ≤ den) := by omega
  refine ⟨fun hlegal hclk => ?_, fun hlegal hclk => ?_, fun hillegal => ?_⟩
  · exact ⟨_, construct_next_iff.mpr ⟨hlegal, hclk, rfl⟩, rfl, rfl, rfl, rfl, rfl, rfl, rfl, rfl, rfl, rfl⟩
  · rw [State.construct, if_neg (by rwa [hduty, not_not]), if_pos hclk]
  · rw [State.construct, if_pos (hduty.mpr hillegal)]

/-- Settles O54: nothing is stored, the cursors are at their ends, and both latches are 1. -/
theorem resetHasTheInvariants : Obligations.ResetHasTheInvariants := by
  refine ⟨⟨rfl, rfl, rfl⟩, ⟨le_rfl, le_rfl, Nat.two_pow_pos _, Nat.two_pow_pos _, trivial⟩, ⟨BitVec.le_refl _, BitVec.le_refl _⟩, ?_⟩
  exact ⟨le_rfl, le_rfl, fun h => absurd rfl h, rfl, rfl, fun _ _ => ⟨rfl, rfl⟩⟩

/-! ### Commands -/

/-- Settles O58: the third test of TRANSACTION. -/
theorem lengthsOfMoreThanLenWBitsAreRefused : Obligations.LengthsOfMoreThanLenWBitsAreRefused := by
  intro s addr wlen wbuf rlen hidle hconf hwide
  have hfits : (lengthFits s wlen && lengthFits s rlen) = false := by
    rw [← Bool.not_eq_true, Bool.and_eq_true, lengthFits_eq_true, lengthFits_eq_true]
    omega
  simp [exec, execTransaction, hidle, hconf, hfits]

/-- Settles O12: the first test of a step, and of each command. -/
theorem commandDuringACommandIsRefused : Obligations.CommandDuringACommandIsRefused := by
  refine fun s hbusy => ⟨fun w hport => ?_, fun rate => ?_, fun addr wlen wbuf rlen => ?_⟩
  · simp [step, nextTurn, hbusy, hport]
  · simp [exec, execConfigure, hbusy]
  · simp [exec, execTransaction, hbusy]

/-- An idle block looks for a command of the host (R242). -/
theorem step_of_isIdle {s : State} (hidle : s.isIdle = true) : step s = runTurn (hostTurn s) := by
  obtain ⟨hpos, hst, htxn⟩ := State.isIdle_eq_true hidle
  simp [step_eq, nextTurn, hidle, hpos, hst, htxn]

/-- Settles O13: the word is no operation, or by `decode_ok_iff` none of class HOST. -/
theorem otherCodesAreNotCommands : Obligations.OtherCodesAreNotCommands := by
  intro s w hidle hport h0 h1
  have hturn : hostTurn s = commandTurn w { s with port := none } := by simp [hostTurn, hport]
  rw [step_of_isIdle hidle, hturn, commandTurn]
  cases hdec : decode w with
  | error e => rfl
  | ok i =>
    obtain ⟨hop, -⟩ := (decode_ok_iff w i).mp hdec
    cases hcls : i.opClass with
    | host => exact ((Sys2Proof.Instr.op_of_opClass_host hcls).elim (h0 <| hop.trans ·) (h1 <| hop.trans ·)).elim
    | _ => simp only [hcls, runTurn]

/-- A well-formed command is performed. -/
theorem commandTurn_of_decode {w : OpWord} {i : Instr} (hdec : decode w = .ok i) (hwf : i.wellFormed = true)
    (hcls : i.opClass = .host) (s : State) : commandTurn w s = .perform i s := by
  simp [commandTurn, hdec, hwf, hcls]

/-- Settles O14: the four positions of `nextTurn`. -/
theorem stepRunsTheDecodedInstruction : Obligations.StepRunsTheDecodedInstruction := by
  refine ⟨fun s w i hdec hwf => ⟨fun hidle hport hcls => ?_, fun ws hidle hport hqueue hcls => ?_, fun hpos hport => ?_⟩,
    fun s i todo hpos hport => step_running hport hpos⟩
  · have hturn : hostTurn s = commandTurn w { s with port := none } := by simp [hostTurn, hport]
    rw [step_of_isIdle hidle, hturn, commandTurn_of_decode hdec hwf hcls]
    rfl
  · have hturn : hostTurn s = commandTurn w { s with queue := ws } := by simp [hostTurn, hport, hqueue]
    rw [step_of_isIdle hidle, hturn, commandTurn_of_decode hdec hwf hcls]
    rfl
  · simp [step, nextTurn, performTurn, hpos, hport, hdec, hwf]

/-! ### The two loops, answer by answer -/

/-- SCL read 1 ends the loop (R152). -/
theorem runMicro_stretch_released {i : Instr} {vs : List Bit} {s : State} (hscl : s.env.scl = true :: vs) :
    runMicro i .stretch s =
      .go { s with env := { s.env with scl := vs }, trace := s.trace ++ [.get .scl true] } := by
  simp [runMicro, hscl, stretchLoop, stretchFlow, emit]

/-- SCL read 0 and a successful answer of the callback lead back to the head of the loop (R152). -/
theorem runMicro_stretch_ok {i : Instr} {vs : List Bit} {rs : List PollAnswer} {s : State}
    (hscl : s.env.scl = false :: vs) (hpoll : s.env.poll = .ok :: rs) :
    runMicro i .stretch s = runMicro i .stretch { s with
      env := { s.env with scl := vs, poll := rs }, trace := s.trace ++ [.get .scl false, .poll .ok] } := by
  rw [runMicro, hscl, stretchLoop_ok hpoll]
  rfl

/-- With no answer of SCL the block stays at the head of the loop (R152; log 7). -/
theorem runMicro_stretch_waits {i : Instr} {s : State} (hscl : s.env.scl = []) :
    runMicro i .stretch s = .wait .stretch s := by
  simp [runMicro, hscl, stretchLoop, stretchFlow]

/-- SCL read 0 and no answer of the callback: the block waits at the poll (R152; log 7). -/
theorem runMicro_stretch_waitsPoll {i : Instr} {vs : List Bit} {s : State} (hscl : s.env.scl = false :: vs)
    (hpoll : s.env.poll = []) : runMicro i .stretch s = .wait .stretchPoll
      { s with env := { s.env with scl := vs }, trace := s.trace ++ [.get .scl false] } := by
  rw [runMicro, hscl, stretchLoop_waitPoll vs s hpoll]
  rfl

/-- `ok` at the poll leads back to the head of the loop (R152). -/
theorem runMicro_stretchPoll_ok {i : Instr} {rs : List PollAnswer} {s : State} (hpoll : s.env.poll = .ok :: rs) :
    runMicro i .stretchPoll s = runMicro i .stretch
      { s with env := { s.env with poll := rs }, trace := s.trace ++ [.poll .ok] } := by
  simp only [runMicro, stretchPollLoop_ok hpoll]

/-- Settles O17: each answer by the lemma on the loop that takes it. -/
theorem clockStretchLoopGoesOn : Obligations.ClockStretchLoopGoesOn := by
  intro s i ms vs rs hport
  refine ⟨fun hpos => ?_, fun hpos hpoll => ?_⟩
  · have hstep (h : s.env.scl ≠ []) : step s = runMicros i (.stretch :: ms) s := by
      rw [step_running hport hpos, feedFor]
      exact congrArg _ (feed_scl_of_ne_nil h)
    refine ⟨fun hscl hpoll => ?_, fun hscl hpoll => ?_, fun hscl => ?_⟩ <;> rw [hstep (by simp [hscl])]
    · rw [runMicros_wait ms ((runMicro_stretch_ok hscl hpoll).trans (runMicro_stretch_waits rfl)), ← hpos]
    · exact runMicros_wait ms (runMicro_stretch_waitsPoll hscl hpoll)
    · exact runMicros_go ms (runMicro_stretch_released hscl)
  · intro s1
    have hstep : step s = runMicros i (.stretch :: ms) s1 := by
      rw [step_running hport hpos, feedFor]
      refine (congrArg _ (feed_poll_of_ne_nil (by simp [hpoll]))).trans ?_
      rw [runMicros, runMicro_stretchPoll_ok hpoll, runMicros]
    exact ⟨hstep, fun hscl => hstep.trans (runMicros_wait ms (runMicro_stretch_waits hscl))⟩

theorem feed_up_of_ne_nil {s : State} (h : s.env.up ≠ []) : feed .up s = s := by
  cases hup : s.env.up with
  | nil => exact absurd hup h
  | cons => simp [feed, hup]

/-- DELAY's loop on answers none of which reaches the deadline waits (R131, R249). -/
theorem delayFlow_waits {n start : Tick} {cs : List Tick} {s : State} (hup : s.env.up = cs)
    (hlaw : (s.env.lastUp :: cs).Pairwise (· ≤ ·)) (hcs : ∀ x ∈ cs, x - start < n) :
    delayFlow n start s = .wait (.delayLoop n start) { s with
      env := { s.env with up := [], lastUp := (s.env.lastUp :: cs).getLast (by simp) }
      trace := s.trace ++ cs.map .uptime } := by
  simp [delayFlow, hup, spin_waits n start cs _ hlaw hcs, afterSpin]

/-- Settles O18, by `delayFlow_waits` and `delayFlow_ends`. -/
theorem delayLoopGoesOn : Obligations.DelayLoopGoesOn := by
  intro s i ms n start c cs hport hup hlaw s1
  have hstep {m : Micro} (hm : m.needs = some .up) (hpos : s.pos = .running i (m :: ms)) :
      step s = runMicros i (m :: ms) s := by
    rw [step_running hport hpos, feedFor]
    simp only [hm, feed_up_of_ne_nil (show s.env.up ≠ [] by simp [hup])]
  refine ⟨fun hpos hcs => ?_, fun hpos => ⟨fun hlt hcs => ?_, fun hle => ?_⟩⟩ <;> rw [hstep rfl hpos]
  · have htake : delayStartFlow n s = delayFlow n c s1 := by
      simp [delayStartFlow, takeUptime, hup, clockAnswer_of_le hlaw, emit, s1]
    have hwait : runMicro i (.delayStart n) s = .wait (.delayLoop n c) s1 := by
      rw [runMicro, htake, delayFlow_waits (cs := []) hcs (by simp) (by simp)]
      simp [s1, hcs]
    exact runMicros_wait ms hwait
  · subst hcs
    have hwait : runMicro i (.delayLoop n start) s = .wait (.delayLoop n start) s1 := by
      rw [runMicro, delayFlow_waits hup (by simpa using hlaw) (by simpa using hlt)]
      rfl
    rw [runMicros_wait ms hwait, ← hpos]
  · refine runMicros_go ms ?_
    rw [runMicro, delayFlow_ends (cs := []) hup (by simpa using hlaw) (by simp) hle]
    rfl

/-! ### The host's view of RBUF -/

/-- CONFIGURE leaves RBUF, its length and the last TRANSACTION's end alone (R64, R120; log 15). -/
theorem exec_configure_view {rate : Nat} {s t : State} (h : exec (.configure rate) s = .next t) :
    t.txnEnd = s.txnEnd ∧ t.rbuf = s.rbuf ∧ t.rlen = s.rlen := by
  obtain rfl | hrun := exec_configure_cases h
  · exact ⟨rfl, rfl, rfl⟩
  · obtain ⟨w, todo, hwait⟩ | ⟨t0, t1, t2, t3, t4, t5, rest, hdone⟩ := runMicros_configureProgram (.configure rate)
      (highTicksFor s rate) (lowTicksFor s rate) { s with reply := none }
    · obtain rfl : _ = t := Host.Outcome.next.inj (hwait.symm.trans hrun)
      exact ⟨rfl, rfl, rfl⟩
    · obtain rfl : _ = t := Host.Outcome.next.inj (hdone.symm.trans hrun)
      rw [measured_eq]
      exact ⟨rfl, rfl, rfl⟩

/-- Settles O57: the entry and the return give `txnEnd`, on which `hostReadRbuf` rests; CONFIGURE by `exec_configure_view`. -/
theorem hostSeesRbufOnlyAfterSuccess : Obligations.HostSeesRbufOnlyAfterSuccess := by
  refine fun s t i => ⟨fun addr wlen wbuf rlen h => ?_, fun htxn h => ?_, fun rate h => ?_⟩
  · obtain rfl := exec_transaction_next h
    exact hostReadRbuf_of_none rfl i
  · rw [exec_stDone, if_pos htxn] at h
    obtain rfl := Host.Outcome.next.inj h
    exact ⟨fun hok => hostReadRbuf_of_success rfl hok i, fun herr hi => hostReadRbuf_of_error (returnToHost_txnEnd s) herr hi⟩
  · obtain ⟨hend, hbuf, hlen⟩ := exec_configure_view h
    exact hostReadRbuf_congr hend hbuf hlen i

/-! ### Accesses out of range -/

/-- Settles O39: the read of WBUF before any cell, and after `runs_readByteProgram` the store into RBUF. -/
theorem outOfRangeBufferAccessFaults : Obligations.OutOfRangeBufferAccessFaults := by
  refine fun s => ⟨fun hwcur => ?_, fun v bs hrcur hsda hclk => ?_⟩
  · have hread : memReadWbuf s = none := if_neg hwcur
    simp [exec, execStWrite, hread]
  · obtain ⟨up, last, tr, -, hrun⟩ := (runs_readByteProgram .stRead v hsda).runMicros hclk
    rw [exec_stRead, List.append_assoc, hrun]
    exact runMicros_fault _ (by simp [runMicro, memWriteRbuf, State.timed, hrcur])

end Sys2Proof.Machine
end

section
/-!
PROOFS. What a step can change, said once (10_state.md R27 to R36, R40). `Move` is one change of the state that a micro-operation or the
machine around it makes; a program is a sequence of moves, and a step is one too, or with it a transaction's entry or return. A rule
about the whole machine is then checked move by move.
-/

namespace Sys2Proof.Machine

/-! ### Moves -/

/-- One change of the state. A move names the micro-operation that makes it where only one does, and that one must be `allowed`. -/
inductive Move (allowed : Micro → Prop) (s : State) : State → Prop
  /-- what no rule about the whole machine speaks of; the clock's previous answer stays -/
  | aside {wcur rcur : Nat} {shreg : Byte} {bitcnt : BitVec 4} {seqState : SeqState} {sclOut sdaOut : Bit} {env : Env}
      {loc : Locals} {pos : Pos} {port : Option OpWord} {queue : List OpWord} {reply : Option Result} {ret : Option Ret}
      (henv : env.lastUp = s.env.lastUp) : Move allowed s { s with
        wcur := wcur, rcur := rcur, shreg := shreg, bitcnt := bitcnt, seqState := seqState, sclOut := sclOut
        sdaOut := sdaOut, env := env, loc := loc, pos := pos, port := port, queue := queue, reply := reply, ret := ret }
  /-- an event that is no clock read -/
  | event (e : Event) (he : e.isShown = true) : Move allowed s (emit e s)
  /-- a clock read -/
  | tick (c : Tick) (up : List Tick) (hc : s.env.lastUp ≤ c) :
      Move allowed s (emit (.uptime c) { s with env := { s.env with up := up, lastUp := c } })
  /-- an error is taken -/
  | latch (k : Result) (hk : k.legalErr = true) : Move allowed s { s with err := latchError s.err k }
  | ack (b : Bit) (h : allowed .latchAck) : Move allowed s { s with ackbit := b }
  | storeRbuf (k : Nat) (v : Byte) : Move allowed s { s with rbuf := Memory.write s.rbuf k v }
  | storeSink (k : Nat) (v : Byte) : Move allowed s { s with sink := Memory.write s.sink k v }
  | clearSink : Move allowed s { s with sink := [] }
  | commit (h l : Tick) (hallowed : allowed (.commit h l)) : Move allowed s (Machine.commit h l s)

/-- Any number of moves. -/
abbrev Moves (allowed : Micro → Prop) : State → State → Prop := Relation.ReflTransGen (Move allowed)

/-- What every move keeps, moves keep. -/
theorem Moves.keeps {allowed : Micro → Prop} {P : State → Prop} {s t : State} (h : Moves allowed s t)
    (hmove : ∀ u v, Move allowed u v → P u → P v) (hs : P s) : P t := by
  induction h with
  | refl => exact hs
  | tail _ hlast ih => exact hmove _ _ hlast ih

theorem Moves.mono {allowed allowed' : Micro → Prop} (hallowed : ∀ m, allowed m → allowed' m) {s t : State}
    (h : Moves allowed s t) : Moves allowed' s t := by
  refine Relation.ReflTransGen.mono (p := Move allowed') (fun u v hmove => ?_) _ _ h
  cases hmove with
  | aside henv => exact .aside henv
  | event e he => exact .event e he
  | tick c up hc => exact .tick c up hc
  | latch k hk => exact .latch k hk
  | ack b hb => exact .ack b (hallowed _ hb)
  | storeRbuf k v => exact .storeRbuf k v
  | storeSink k v => exact .storeSink k v
  | clearSink => exact .clearSink
  | commit h l hc => exact .commit h l (hallowed _ hc)

section
variable {allowed : Micro → Prop}

/-! ### Each operation of the state is a sequence of moves -/

theorem pinSet_moves (p : Pin) (b : Bit) (s : State) : Moves allowed s (pinSet p b s) := by
  cases p with
  | scl => exact .tail (.single (.aside rfl)) (.event (.set .scl b) rfl)
  | sda => exact .tail (.single (.aside rfl)) (.event (.set .sda b) rfl)

/-- A read that is answered, other than of the clock. -/
theorem answer_moves {e : Event} (he : e.isShown = true) {env : Env} {s : State} (henv : env.lastUp = s.env.lastUp) :
    Moves allowed s (emit e { s with env := env }) :=
  .tail (.single (.aside henv)) (.event e he)

theorem takePoll_moves {s t : State} {r : PollAnswer} (h : takePoll s = some (r, t)) : Moves allowed s t := by
  obtain ⟨rs, -, rfl⟩ := takePoll_some h
  exact answer_moves rfl rfl

theorem takeSda_moves {s t : State} {b : Bit} (h : takeSda s = some (b, t)) : Moves allowed s t := by
  obtain ⟨bs, -, rfl⟩ := takeSda_some h
  exact answer_moves rfl rfl

theorem takeUptime_moves {s t : State} {c : Tick} (h : takeUptime s = some (c, t)) : Moves allowed s t := by
  obtain ⟨u, us, -, rfl, rfl⟩ := takeUptime_some h
  exact .single (.tick _ us (clockAnswer_ge _ u))

theorem feed_moves (src : Source) (s : State) : Moves allowed s (feed src s) := by
  obtain ⟨e, h, hlast⟩ := feed_eq src s
  rw [h]
  exact .single (.aside hlast)

theorem feedFor_moves (todo : List Micro) (s : State) : Moves allowed s (feedFor todo s) := by
  obtain ⟨e, h, hlast⟩ := feedFor_eq todo s
  rw [h]
  exact .single (.aside hlast)

theorem raise_moves {k : Result} (hk : k.legalErr = true) (s : State) : Moves allowed s (raise k s) :=
  .tail (.single (.latch k hk)) (.aside rfl)

theorem abort_moves (i : Instr) (e : TimeoutErr) (s : State) : Moves allowed s (abort i e s) := by
  unfold abort
  split
  · exact raise_moves rfl s
  all_goals exact .single (.aside rfl)

/-- DELAY's loop is a sequence of clock reads (R131). -/
theorem spin_moves (n start : Tick) (ts : List Tick) (s : State) :
    Moves allowed s (afterSpin s (spin n start ts s.env.lastUp)) := by
  induction ts generalizing s with
  | nil =>
    simp only [afterSpin, spin, List.map_nil, List.append_nil]
    exact .single (.aside rfl)
  | cons t ts ih =>
    let c := clockAnswer s.env.lastUp t
    let s1 := emit (.uptime c) { s with env := { s.env with up := ts, lastUp := c } }
    have hread : Moves allowed s s1 := .single (.tick c ts (clockAnswer_ge _ t))
    simp only [spin]
    split
    · exact hread
    · have hrest : afterSpin s { spin n start ts c with reads := c :: (spin n start ts c).reads } =
          afterSpin s1 (spin n start ts s1.env.lastUp) := by simp [afterSpin, s1, emit]
      rw [hrest]
      exact hread.trans (ih s1)

theorem delayFlow_moves {n start : Tick} {s t : State} (h : (delayFlow n start s).after = some t) :
    Moves allowed s t := by
  simp only [delayFlow] at h
  split at h <;> cases h <;> exact spin_moves n start s.env.up s

theorem delayStartFlow_moves {n : Tick} {s t : State} (h : (delayStartFlow n s).after = some t) : Moves allowed s t := by
  unfold delayStartFlow at h
  split at h
  · cases h
    exact .refl
  · next hread => exact (takeUptime_moves hread).trans (delayFlow_moves h)

theorem delayWhole_moves {n : Tick} {s t : State} (h : (delayWhole n s).after = some t) : Moves allowed s t :=
  (Relation.ReflTransGen.single (.event (.delay n) rfl)).trans (delayStartFlow_moves h)

/-- The clock-stretch loop reads SCL and polls (R152). -/
theorem stretchLoop_moves (vs : List Bit) (s : State) : Moves allowed s (stretchLoop vs s).after := by
  induction vs generalizing s with
  | nil => exact .refl
  | cons v vs ih =>
    let s1 := emit (.get .scl v) { s with env := { s.env with scl := vs } }
    have hread : Moves allowed s s1 := answer_moves rfl rfl
    simp only [stretchLoop]
    split
    · exact hread
    · split
      · exact hread
      · next hpoll => exact (hread.trans (takePoll_moves hpoll)).trans (ih _)
      · next hpoll => exact hread.trans (takePoll_moves hpoll)

theorem stretchPollLoop_moves (s : State) : Moves allowed s (stretchPollLoop s).after := by
  unfold stretchPollLoop
  split
  · exact .refl
  · next hpoll => exact (takePoll_moves hpoll).trans (stretchLoop_moves _ _)
  · next hpoll => exact takePoll_moves hpoll

theorem stretchFlow_moves {i : Instr} {st : Stretch} {s t : State} (hst : Moves allowed s st.after)
    (h : (stretchFlow i st).after = some t) : Moves allowed s t := by
  cases st with
  | aborted e u => cases h; exact hst.trans (abort_moves i e u)
  | released | waitScl | waitPoll => cases h; exact hst

theorem uptimeInto_moves {m : Micro} {keep : Tick → Locals → Locals} {s t : State}
    (h : (uptimeInto m keep s).after = some t) : Moves allowed s t := by
  unfold uptimeInto at h
  split at h
  · cases h
    exact .refl
  · next hread =>
    cases h
    exact .tail (takeUptime_moves hread) (.aside rfl)

theorem afterAddress_moves (s : State) : Moves allowed s (afterAddress s) := by
  unfold afterAddress
  split
  · exact .single (.aside rfl)
  · exact raise_moves rfl s

theorem afterWrite_moves (s : State) : Moves allowed s (afterWrite s) := by
  simp only [afterWrite]
  split
  · exact .single (.aside rfl)
  · exact .trans (.single (.aside rfl)) (raise_moves rfl _)

/-! ### Programs -/

/-- A micro-operation is a sequence of moves, whichever way it ends. -/
theorem runMicro_moves {i : Instr} {m : Micro} {s t : State} (hm : allowed m) (h : (runMicro i m s).after = some t) :
    Moves allowed s t := by
  cases m with
  | set p b => cases h; exact pinSet_moves p b s
  | setMsb | setAck => cases h; exact pinSet_moves .sda _ s
  | stretch => exact stretchFlow_moves (stretchLoop_moves _ _) h
  | stretchPoll => exact stretchFlow_moves (stretchPollLoop_moves _) h
  | delay | delayHigh | delayLow => exact delayWhole_moves h
  | delayStart => exact delayStartFlow_moves h
  | delayLoop => exact delayFlow_moves h
  | sample =>
    simp only [runMicro] at h
    split at h
    · cases h
      exact .refl
    · next hread =>
      cases h
      exact .tail (takeSda_moves hread) (.aside rfl)
  | loadByte | shiftOut | shiftIn | afterRead | goto => cases h; exact .single (.aside rfl)
  | latchAck => cases h; exact .single (.ack _ hm)
  | failOnNack k =>
    simp only [runMicro] at h
    split at h <;> cases h
    · exact .refl
    · exact .single (.aside rfl)
  | storeSink k => cases h; exact .single (.storeSink k _)
  | missingByte => cases h
  | storeRbuf =>
    simp only [runMicro, memWriteRbuf] at h
    split at h
    · cases h
    · next hstore =>
      split at hstore <;> cases hstore
      cases h
      exact .tail (.tail (.single (.storeRbuf _ _)) (.event (.wroteRbuf _ _) rfl)) (.aside rfl)
  | afterAddress => cases h; exact afterAddress_moves s
  | afterWrite => cases h; exact afterWrite_moves s
  | markUptime => exact uptimeInto_moves (keep := keepMark) h
  | lapUptime => exact uptimeInto_moves (keep := keepLap) h
  | lapPin p => exact uptimeInto_moves (keep := keepOverhead p) h
  | commit h' l => cases h; exact .single (.commit h' l hm)

/-- A program is a sequence of moves, however far it runs. -/
theorem runMicros_moves {i : Instr} {ms : List Micro} (hms : ∀ m ∈ ms, allowed m) {s t : State}
    (h : runMicros i ms s = .next t) : Moves allowed s t := by
  induction ms generalizing s with
  | nil => cases h; exact .single (.aside rfl)
  | cons m ms ih =>
    obtain ⟨hm, hms⟩ := List.forall_mem_cons.mp hms
    simp only [runMicros] at h
    split at h
    · next hgo => exact (runMicro_moves hm (by rw [hgo]; rfl)).trans (ih hms h)
    · next hwait => cases h; exact .tail (runMicro_moves hm (by rw [hwait]; rfl)) (.aside rfl)
    · next hhalt => cases h; exact .tail (runMicro_moves hm (by rw [hhalt]; rfl)) (.aside rfl)
    · cases h

end

/-! ### Operations -/

/-- The program of an operation invoked in state `s`; TRANSACTION and ST_DONE have none. -/
def programOf (i : Instr) (s : State) : List Micro :=
  match i with
  | .configure rate => configureProgram (highTicksFor s rate) (lowTicksFor s rate)
  | .transaction _ _ _ _ | .stDone | .calBudget _ _ _ _ _ => []
  | .stStart | .stRepeatedStart => startProgram ++ [.goto .writeAddress]
  | .stWriteAddress => writeByteProgram (addressByte s.addr (rwBit s)) ++ [.afterAddress]
  | .stWrite => writeByteProgram ((memReadWbuf s).getD 0) ++ [.afterWrite]
  | .stRead => readByteProgram ++ [.storeRbuf] ++ writeCell .setAck ++ [.afterRead]
  | .stSendStop | .stBusError => stopProgram ++ [.goto .done]
  | .delay n => [.delay n]
  | .sendStart => startProgram
  | .sendStop => stopProgram
  | .writeBit bit => writeCell (.set .sda bit)
  | .readBit => readCell
  | .writeByte byte => writeByteProgram byte
  | .readByte => readByteProgram
  | .writeAddress byte => writeAddressProgram byte
  | .write n buf => writeProgram n buf
  | .read n => readProgram n
  | .calUptime => calUptimeProgram
  | .calPin pin _ => calPinProgram pin
  | .calRestore => calRestoreProgram

/-- The state in which that program begins. -/
def beginning (i : Instr) (s : State) : State :=
  match i with
  | .configure _ => { s with reply := none }
  | .stWrite => emit (.readWbuf s.wcur ((memReadWbuf s).getD 0)) s
  | .transaction _ _ _ _ | .stStart | .stRepeatedStart | .stWriteAddress | .stRead | .stSendStop | .stBusError
  | .stDone => s
  | .read _ => { s with sink := [], ret := none }
  | .calPin _ u => { s with loc := { s.loc with u := u }, ret := none }
  | .delay _ | .sendStart | .sendStop | .writeBit _ | .readBit | .writeByte _ | .readByte | .writeAddress _
  | .write _ _ | .calUptime | .calRestore | .calBudget _ _ _ _ _ => { s with ret := none }

theorem beginning_moves {allowed : Micro → Prop} (i : Instr) (s : State) : Moves allowed s (beginning i s) := by
  cases i with
  | configure | calPin => exact .single (.aside rfl)
  | stWrite => exact .single (.event _ rfl)
  | read n => exact .tail (.single .clearSink) (.aside rfl)
  | _ => exact .single (.aside rfl)

/-- An operation of the engine or the calibrator is its program (R125 to R131, R150 to R159). -/
theorem exec_eq_runMicros {i : Instr} (hi : i.opClass = .eng ∨ i.opClass = .cal) (s : State) :
    exec i s = runMicros i (programOf i s) (beginning i s) := by
  cases i with
  | configure | transaction | stStart | stRepeatedStart | stWriteAddress | stWrite | stRead | stSendStop | stBusError
  | stDone => simp [Instr.opClass] at hi
  | _ => rfl

/-- The ways an operation answers a next state. -/
inductive ExecCase (i : Instr) (s t : State) : Prop
  /-- it runs its program -/
  | runs (hconf : ∀ rate, i = .configure rate → s.isIdle = true) (hwrite : i = .stWrite → s.wcur < s.wlen)
      (h : runMicros i (programOf i s) (beginning i s) = .next t)
  /-- CONFIGURE fails on its rate -/
  | unsupported (rate : Nat) (hi : i = .configure rate) (hidle : s.isIdle = true)
      (ht : t = { s with reply := some .unsupportedOperation })
  /-- a transaction is entered -/
  | enters (addr : Address) (wlen : Nat) (wbuf : List Byte) (rlen : Nat) (hi : i = .transaction addr wlen wbuf rlen)
      (hidle : s.isIdle = true) (hwlen : wlen < 2 ^ s.lenW) (hrlen : rlen < 2 ^ s.lenW)
      (ht : t = entered addr wlen wbuf rlen s)
  /-- a transaction returns -/
  | returns (hi : i = .stDone) (htxn : s.inTxn = true) (ht : t = returnToHost s)
  /-- ST_DONE without a transaction -/
  | rests (hi : i = .stDone) (ht : t = s)

/-- What an operation can do. -/
theorem exec_cases {i : Instr} {s t : State} (h : exec i s = .next t) : ExecCase i s t := by
  cases i with
  | configure rate =>
    simp only [exec, execConfigure] at h
    split at h
    · cases h
    · next hidle =>
      have hidle : s.isIdle = true := by simpa using hidle
      split at h
      · cases h
      · split at h
        · cases h
          exact .unsupported rate rfl hidle rfl
        · exact .runs (fun _ _ => hidle) nofun h
  | transaction addr wlen wbuf rlen =>
    have ht := exec_transaction_next h
    simp only [exec, execTransaction] at h
    split at h
    · cases h
    · next hidle =>
      split at h
      · cases h
      · split at h
        · cases h
        · next hfits =>
          obtain ⟨hwlen, hrlen⟩ : wlen < 2 ^ s.lenW ∧ rlen < 2 ^ s.lenW := by simpa using hfits
          exact .enters addr wlen wbuf rlen rfl (by simpa using hidle) hwlen hrlen ht
  | stWrite =>
    simp only [exec, execStWrite] at h
    split at h
    · cases h
    · next v hv =>
      have hlt : s.wcur < s.wlen := by
        by_contra hge
        simp [memReadWbuf, hge] at hv
      exact .runs nofun (fun _ => hlt) (by simpa only [programOf, beginning, hv, Option.getD_some] using h)
  | stDone =>
    rw [exec_stDone] at h
    obtain rfl := Host.Outcome.next.inj h
    by_cases htxn : s.inTxn = true
    · exact .returns rfl htxn (if_pos htxn)
    · exact .rests rfl (if_neg htxn)
  | _ => exact .runs nofun nofun h

/-! ### What stands in which program -/

/-- The operations that send a byte with WRITE_BYTE (R154, R157, R158, R185, R186). -/
def sendsByte (i : Instr) : Bool :=
  match i with
  | .stWriteAddress | .stWrite | .writeByte _ | .writeAddress _ | .write _ _ => true
  | _ => false

/-- Where micro-operation `m` may stand: it belongs to one operation only, or to those that send a byte, or it is free. -/
def Micro.fits (i : Instr) (m : Micro) : Bool :=
  match m with
  | .latchAck => sendsByte i
  | .commit _ _ => match i with | .configure _ => true | _ => false
  | .afterWrite => match i with | .stWrite => true | _ => false
  | .storeRbuf => match i with | .stRead => true | _ => false
  | .missingByte => !i.wellFormed
  | _ => true

theorem writeProgram_all {p : Micro → Bool} (hbyte : ∀ b, (writeByteProgram b).all p = true)
    (hnack : p (.failOnNack .ioError) = true) {n : Nat} {buf : List Byte}
    (hmissing : buf.length < n → p .missingByte = true) : (writeProgram n buf).all p = true := by
  have htail : (if buf.length < n then [Micro.missingByte] else []).all p = true := by
    split
    · next hlt => simp [hmissing hlt]
    · rfl
  rw [writeProgram, List.all_append, htail, Bool.and_true, List.all_flatMap, List.all_eq_true]
  intro b _
  simp [hbyte, hnack]

theorem readProgram_all {p : Micro → Bool} (hbyte : readByteProgram.all p = true)
    (hstore : ∀ k, p (.storeSink k) = true) (hcell : ∀ b, (writeCell (.set .sda b)).all p = true) (n : Nat) :
    (readProgram n).all p = true := by
  rw [readProgram, List.all_flatMap, List.all_eq_true]
  intro k _
  simp [hbyte, hstore, hcell]

/-- Every micro-operation of a program may stand there. -/
theorem programOf_fits (i : Instr) (s : State) : (programOf i s).all (Micro.fits i) = true := by
  cases i with
  | write n buf =>
    have hbyte (b : Byte) : (writeByteProgram b).all (Micro.fits (.write n buf)) = true := by rfl
    refine writeProgram_all hbyte rfl fun hlt => ?_
    have hill : bufferOk n buf = false := beq_false_of_ne hlt.ne
    exact congrArg (!·) hill
  | read n => exact readProgram_all rfl (fun _ => rfl) (fun _ => rfl) n
  | _ => rfl

end Sys2Proof.Machine
end

section
/-!
PROOFS. The rules about the whole machine (10_state.md R28 to R40; 20_memory.md R60, R64, R72; 60_exceptions.md R211, R219), each checked
move by move.
-/

namespace Sys2Proof.Machine

/-! ### Operations and steps as moves -/

theorem programOf_fits_mem {i : Instr} {s : State} {m : Micro} (h : m ∈ programOf i s) : m.fits i = true :=
  List.all_eq_true.mp (programOf_fits i s) m h

/-- An operation makes moves that fit it, is a transaction's entry, or its return. -/
theorem exec_moves {i : Instr} {s t : State} (h : exec i s = .next t) :
    Moves (fun m => m.fits i = true) s t ∨
      (i.opClass = .host ∧ s.isIdle = true ∧ ∃ addr wlen wbuf rlen, t = entered addr wlen wbuf rlen s) ∨
      (i = .stDone ∧ s.inTxn = true ∧ t = returnToHost s) := by
  cases exec_cases h with
  | runs _ _ hrun => exact .inl ((beginning_moves i s).trans (runMicros_moves (fun _ hm => programOf_fits_mem hm) hrun))
  | unsupported rate hi _ ht => exact .inl (ht ▸ .single (.aside rfl))
  | enters addr wlen wbuf rlen hi hidle _ _ ht => exact .inr (.inl ⟨by rw [hi]; rfl, hidle, addr, wlen, wbuf, rlen, ht⟩)
  | returns hi htxn ht => exact .inr (.inr ⟨hi, htxn, ht⟩)
  | rests hi ht => exact .inl (ht ▸ .refl)

/-- The moves of a step, in which every micro-operation may take part. -/
abbrev StepMoves : State → State → Prop := Moves fun _ => True

theorem Moves.toStepMoves {allowed : Micro → Prop} {s t : State} (h : Moves allowed s t) : StepMoves s t :=
  h.mono fun _ _ => trivial

/-- What a step does, in moves. -/
inductive StepEffect (s t : State) : Prop
  | moves (h : StepMoves s t)
  /-- a transaction is entered; what comes before is the taking of its command -/
  | enters (s0 : State) (hs0 : StepMoves s s0) (htrace : s0.trace = s.trace) (hst : s.seqState = .done)
      (htxn : s.inTxn = false) (addr : Address) (wlen : Nat) (wbuf : List Byte) (rlen : Nat)
      (ht : t = entered addr wlen wbuf rlen s0)
  /-- a transaction returns -/
  | returns (s0 : State) (hs0 : StepMoves s s0) (ht : t = returnToHost s0)

/-- The effect of an operation taken from the port, from the queue or where a rule invokes it. -/
theorem stepEffect_of_exec {i : Instr} {s s0 t : State} (hs0 : StepMoves s s0) (htrace : s0.trace = s.trace)
    (hst : s0.seqState = s.seqState) (htxn : s0.inTxn = s.inTxn) (h : exec i s0 = .next t) : StepEffect s t := by
  obtain hmoves | ⟨-, hidle, addr, wlen, wbuf, rlen, rfl⟩ | ⟨-, -, rfl⟩ := exec_moves h
  · exact .moves (hs0.trans hmoves.toStepMoves)
  · obtain ⟨-, hdone, hno⟩ := State.isIdle_eq_true hidle
    exact .enters s0 hs0 htrace (hst ▸ hdone) (htxn ▸ hno) addr wlen wbuf rlen rfl
  · exact .returns s0 hs0 rfl

/-- The effect of the action of a sequencer state (R182). -/
theorem stepEffect_of_action {st : SeqState} {s s0 t : State} (hs0 : StepMoves s s0) (h : exec st.instr s0 = .next t) :
    StepEffect s t := by
  obtain hmoves | ⟨hhost, -⟩ | ⟨-, -, rfl⟩ := exec_moves h
  · exact .moves (hs0.trans hmoves.toStepMoves)
  · rw [SeqState.instr_opClass] at hhost
    cases hhost
  · exact .returns s0 hs0 rfl

theorem AtPoll.moves {allowed : Micro → Prop} {s s0 : State} (h : AtPoll s s0) : Moves allowed s s0 := by
  cases h with
  | head => exact .refl
  | answered => exact feed_moves .poll s

theorem Taken.moves {allowed : Micro → Prop} {s s0 : State} {w : OpWord} (h : Taken s w s0) : Moves allowed s s0 := by
  cases h with
  | port | queue => exact .single (.aside rfl)

theorem Taken.inTxn {s s0 : State} {w : OpWord} (h : Taken s w s0) : s0.inTxn = s.inTxn := by
  cases h <;> rfl

/-- What a step does, in moves. -/
theorem step_effect {s t : State} (h : step s = .next t) : StepEffect s t := by
  cases step_cases h with
  | resume i todo hpos hrun =>
    exact .moves ((feedFor_moves todo s).trans (runMicros_moves (fun _ _ => trivial) hrun))
  | perform w i hpos hdec hwf hexec =>
    exact stepEffect_of_exec (s0 := { s with pos := .idle }) (.single (.aside rfl)) rfl rfl rfl hexec
  | pollWaits s0 hs hp ht => exact .moves (ht ▸ hs.moves.tail (.aside rfl))
  | pollOk s0 s1 hs hp hexec =>
    exact stepEffect_of_action ((hs.moves.trans (takePoll_moves hp)).tail (.aside rfl)) hexec
  | pollFailsActs s0 s1 e hs hp hst hexec =>
    exact stepEffect_of_action
      (((hs.moves.trans (takePoll_moves hp)).tail (.latch (.timeout e) rfl)).tail (.aside rfl)) hexec
  | pollFailsSkips s0 s1 e hs hp hst ht =>
    exact .moves (ht ▸ ((hs.moves.trans (takePoll_moves hp)).trans (raise_moves rfl s1)).tail (.aside rfl))
  | returns _ _ _ ht => exact .returns s .refl ht
  | command w s0 i hidle hs hdec hcls hwf hexec =>
    obtain ⟨hseq, htrace⟩ := hs.unchanged
    exact stepEffect_of_exec hs.moves htrace hseq hs.inTxn hexec
  | rests _ ht => exact .moves (ht ▸ .refl)

/-- What every move, the entry and the return keep, a step keeps. -/
theorem step_keeps {P : State → Prop} (hmove : ∀ u v, Move (fun _ => True) u v → P u → P v)
    (henter : ∀ addr wlen wbuf rlen u, P u → P (entered addr wlen wbuf rlen u)) (hreturn : ∀ u, P u → P (returnToHost u))
    {s t : State} (h : step s = .next t) (hs : P s) : P t := by
  cases step_effect h with
  | moves hmoves => exact hmoves.keeps hmove hs
  | enters s0 hs0 _ _ _ addr wlen wbuf rlen ht => exact ht ▸ henter addr wlen wbuf rlen s0 (hs0.keeps hmove hs)
  | returns s0 hs0 ht => exact ht ▸ hreturn s0 (hs0.keeps hmove hs)

/-! ### The trace and the clock -/

theorem uptimes_append (es es' : List Event) : uptimes (es ++ es') = uptimes es ++ uptimes es' := by
  induction es with
  | nil => rfl
  | cons e es ih => cases e <;> simp [uptimes, ih]

/-- From `s` to `t` events have been added whose clock reads rise from the clock's previous answer, and the last of them is the new
one (R40, R72). -/
def Follows (s t : State) : Prop :=
  ∃ es, t.trace = s.trace ++ es ∧ (s.env.lastUp :: uptimes es).Pairwise (· ≤ ·) ∧
    t.env.lastUp = (s.env.lastUp :: uptimes es).getLast (by simp)

/-- Rising answers go on rising from the last of them. -/
theorem pairwise_append_of_getLast {c : Tick} {l l' : List Tick} (h : (c :: l).Pairwise (· ≤ ·))
    (h' : ((c :: l).getLast (by simp) :: l').Pairwise (· ≤ ·)) : (c :: (l ++ l')).Pairwise (· ≤ ·) := by
  induction l generalizing c with
  | nil => exact h'
  | cons d l ih =>
    obtain ⟨hc, hd⟩ := List.pairwise_cons.mp h
    have hrest := ih hd (by simpa using h')
    obtain ⟨hfirst, -⟩ := List.pairwise_cons.mp hrest
    refine List.pairwise_cons.mpr ⟨fun x hx => ?_, hrest⟩
    obtain rfl | hx := List.mem_cons.mp hx
    · exact hc _ (by simp)
    · exact BitVec.le_trans (hc d (by simp)) (hfirst x hx)

theorem getLast_cons_append (c : Tick) (l l' : List Tick) :
    (c :: (l ++ l')).getLast (by simp) = ((c :: l).getLast (by simp) :: l').getLast (by simp) := by
  induction l generalizing c with
  | nil => rfl
  | cons d l ih => simpa using ih d

theorem Follows.trans {s t u : State} (h : Follows s t) (h' : Follows t u) : Follows s u := by
  obtain ⟨es, htrace, hrise, hlast⟩ := h
  obtain ⟨es', htrace', hrise', hlast'⟩ := h'
  refine ⟨es ++ es', by rw [htrace', htrace, List.append_assoc], ?_, ?_⟩
  · rw [uptimes_append]
    exact pairwise_append_of_getLast hrise (hlast ▸ hrise')
  · simp only [hlast', hlast, uptimes_append, getLast_cons_append]

theorem follows_of_unchanged {s t : State} (htrace : t.trace = s.trace) (hlast : t.env.lastUp = s.env.lastUp) :
    Follows s t := ⟨[], by simp [htrace], by simp [uptimes], by simp [uptimes, hlast]⟩

theorem uptimes_of_isShown {e : Event} (h : e.isShown = true) : uptimes [e] = [] := by
  cases e with
  | uptime => cases h
  | _ => rfl

theorem Move.follows {allowed : Micro → Prop} {s t : State} (h : Move allowed s t) : Follows s t := by
  cases h with
  | aside henv => exact follows_of_unchanged rfl henv
  | event e he => exact ⟨[e], rfl, by simp [uptimes_of_isShown he], by simp [uptimes_of_isShown he]⟩
  | tick c up hc => exact ⟨[.uptime c], rfl, by simpa [uptimes] using hc, rfl⟩
  | latch | ack | storeRbuf | storeSink | clearSink | commit => exact follows_of_unchanged rfl rfl

theorem Moves.follows {allowed : Micro → Prop} {s t : State} (h : Moves allowed s t) : Follows s t :=
  h.keeps (P := Follows s) (fun _ _ hmove hs => hs.trans hmove.follows) (follows_of_unchanged rfl rfl)

/-- Settles O46, by `Move.follows`; the entry and the return add no event. -/
theorem traceGrowsAndTheClockIsMonotone : Obligations.TraceGrowsAndTheClockIsMonotone :=
  fun s _ h => step_keeps (P := Follows s) (fun _ _ hmove hs => hs.trans hmove.follows)
    (fun _ _ _ _ _ hs => hs.trans (follows_of_unchanged rfl rfl))
    (fun _ hs => hs.trans (follows_of_unchanged rfl rfl)) h (follows_of_unchanged rfl rfl)

/-! ### The buffer spaces -/

theorem Move.keeps_memoryCanonical {allowed : Micro → Prop} {s t : State} (h : Move allowed s t)
    (hs : MemoryCanonical s) : MemoryCanonical t := by
  obtain ⟨hwbuf, hrbuf, hsink⟩ := hs
  cases h with
  | storeRbuf k v => exact ⟨hwbuf, Memory.write_wf _ k v hrbuf, hsink⟩
  | storeSink k v => exact ⟨hwbuf, hrbuf, Memory.write_wf _ k v hsink⟩
  | clearSink => exact ⟨hwbuf, hrbuf, Memory.nil_wf⟩
  | aside | event | tick | latch | ack | commit => exact ⟨hwbuf, hrbuf, hsink⟩

/-- Settles O50: stores by `Memory.write_wf`, the entry's buffer by `Memory.ofBytes_wf`. -/
theorem stepKeepsMemoryCanonical : Obligations.StepKeepsMemoryCanonical := by
  refine fun s t h => step_keeps (fun _ _ hmove => hmove.keeps_memoryCanonical) ?_ (fun _ hs => hs) h
  rintro addr wlen wbuf rlen u ⟨-, -, hsink⟩
  exact ⟨Memory.ofBytes_wf wbuf, Memory.nil_wf, hsink⟩

/-! ### The registers -/

/-- Settles O45: no move writes a parameter, and `commit` sets `CONFIGURED`. -/
theorem parametersAreConstantAndConfiguredStays : Obligations.ParametersAreConstantAndConfiguredStays := by
  intro s t h
  refine step_keeps (P := fun u => u.dutyNum = s.dutyNum ∧ u.dutyDen = s.dutyDen ∧ u.fClk = s.fClk ∧ u.lenW = s.lenW ∧
    (s.configured = true → u.configured = true)) (fun u v hmove hu => ?_) (fun _ _ _ _ _ hu => hu) (fun _ hu => hu) h
    ⟨rfl, rfl, rfl, rfl, id⟩
  cases hmove with
  | commit =>
    obtain ⟨hnum, hden, hclk, hlen, -⟩ := hu
    exact ⟨hnum, hden, hclk, hlen, fun _ => rfl⟩
  | aside | event | tick | latch | ack | storeRbuf | storeSink | clearSink => exact hu

/-- CAL_BUDGET's result is no more than the ticks it is taken from (R129). -/
theorem budget_le (h u cs cd : Tick) : budget h u cs cd ≤ h := by
  rw [BitVec.le_def, budget_toNat]
  exact Nat.sub_le ..

/-- Settles O49: only `commit` writes them, by `budget_le`. -/
theorem stepKeepsBudgetsWithinTicks : Obligations.StepKeepsBudgetsWithinTicks := by
  refine fun s t h => step_keeps (fun u v hmove hu => ?_) (fun _ _ _ _ _ hu => hu) (fun _ hu => hu) h
  cases hmove with
  | commit h l => exact ⟨budget_le .., budget_le ..⟩
  | aside | event | tick | latch | ack | storeRbuf | storeSink | clearSink => exact hu

/-- Settles O43: the one move that writes `ACKBIT` is allowed only in an operation that sends a byte. -/
theorem onlySentBytesWriteAckbit : Obligations.OnlySentBytesWriteAckbit := by
  intro i s t h hne
  have hsends : sendsByte i = true := by
    by_contra hno
    refine hne ?_
    obtain hmoves | ⟨-, -, _, _, _, _, rfl⟩ | ⟨-, -, rfl⟩ := exec_moves h
    · refine hmoves.keeps (P := fun u => u.ackbit = s.ackbit) (fun u v hmove hu => ?_) rfl
      cases hmove with
      | ack b hfits => exact absurd hfits hno
      | aside | event | tick | latch | storeRbuf | storeSink | clearSink | commit => exact hu
    · rfl
    · rfl
  cases i with
  | stWriteAddress | stWrite | writeByte | writeAddress | write => simp
  | _ => cases hsends

/-- Settles O44: the one move that writes them is allowed only in CONFIGURE. -/
theorem onlyConfigureWritesTheTimingRegisters : Obligations.OnlyConfigureWritesTheTimingRegisters := by
  intro i s t h hne
  obtain hmoves | ⟨-, -, _, _, _, _, rfl⟩ | ⟨-, -, rfl⟩ := exec_moves h
  · refine hmoves.keeps (P := fun u => u.highTicks = s.highTicks ∧ u.lowTicks = s.lowTicks ∧
      u.uptimeOvh = s.uptimeOvh ∧ u.sclOvh = s.sclOvh ∧ u.sdaOvh = s.sdaOvh ∧ u.highBudget = s.highBudget ∧
      u.lowBudget = s.lowBudget ∧ u.configured = s.configured) (fun u v hmove hu => ?_)
      ⟨rfl, rfl, rfl, rfl, rfl, rfl, rfl, rfl⟩
    cases hmove with
    | commit h l hfits =>
      cases i with
      | configure rate => exact absurd rfl (hne rate)
      | _ => cases hfits
    | aside | event | tick | latch | ack | storeRbuf | storeSink | clearSink => exact hu
  · exact ⟨rfl, rfl, rfl, rfl, rfl, rfl, rfl, rfl⟩
  · exact ⟨rfl, rfl, rfl, rfl, rfl, rfl, rfl, rfl⟩

/-! ### The error latch -/

theorem Move.keeps_err {allowed : Micro → Prop} {s t : State} (h : Move allowed s t) (hs : s.err ≠ .none) :
    t.err = s.err := by
  cases h with
  | latch k => exact latchError_of_ne hs k
  | aside | event | tick | ack | storeRbuf | storeSink | clearSink | commit => rfl

theorem Moves.keeps_err {allowed : Micro → Prop} {s t : State} (h : Moves allowed s t) (hs : s.err ≠ .none) :
    t.err = s.err :=
  h.keeps (P := fun u => u.err = s.err) (fun _ _ hmove hu => (hmove.keeps_err (hu ▸ hs)).trans hu) rfl

/-- Settles O47, by `Moves.keeps_err`. -/
theorem firstErrorIsKept : Obligations.FirstErrorIsKept := by
  intro s t h herr
  cases step_effect h with
  | moves hmoves => exact .inl (hmoves.keeps_err herr)
  | enters s0 _ htrace hst htxn addr wlen wbuf rlen ht =>
    subst ht
    exact .inr ⟨hst, htxn, rfl, rfl, htrace⟩
  | returns s0 hs0 ht =>
    subst ht
    exact .inl (hs0.keeps_err herr)

/-- Settles O48: only legal errors are taken. -/
theorem errNeverHoldsUnsupportedOperation : Obligations.ErrNeverHoldsUnsupportedOperation := by
  refine fun s t h => step_keeps (P := fun u => u.err.legalErr = true) (fun u v hmove hu => ?_) (fun _ _ _ _ _ _ => rfl)
    (fun _ hu => hu) h
  cases hmove with
  | latch k hk =>
    show (latchError u.err k).legalErr = true
    unfold latchError
    split <;> assumption
  | aside | event | tick | ack | storeRbuf | storeSink | clearSink | commit => exact hu

/-! ### The end of a transaction -/

/-- Moves neither begin nor end a transaction. -/
theorem Moves.keeps_txn {allowed : Micro → Prop} {s t : State} (h : Moves allowed s t) :
    t.inTxn = s.inTxn ∧ t.txnEnd = s.txnEnd := by
  refine h.keeps (P := fun u => u.inTxn = s.inTxn ∧ u.txnEnd = s.txnEnd) (fun u v hmove hu => ?_) ⟨rfl, rfl⟩
  cases hmove with
  | aside | event | tick | latch | ack | storeRbuf | storeSink | clearSink | commit => exact hu

/-- Settles O59: by `Moves.keeps_txn`, and the entry leaves no end. -/
theorem hostSeesNothingDuringATransaction : Obligations.HostSeesNothingDuringATransaction := by
  refine ⟨rfl, fun s t h hs htxn => ?_⟩
  have hend : t.txnEnd = none := by
    cases step_effect h with
    | moves hmoves =>
      obtain ⟨hin, hend⟩ := hmoves.keeps_txn
      exact hend.trans (hs (hin ▸ htxn))
    | enters s0 _ _ _ _ addr wlen wbuf rlen ht => exact ht ▸ rfl
    | returns s0 hs0 ht =>
      subst ht
      cases htxn
  exact ⟨hend, hostReadRbuf_of_none hend⟩

end Sys2Proof.Machine
end

section
/-!
PROOFS. How a micro-operation waits or faults, and what it does to the cursors (20_memory.md R62, R63; 10_state.md R22, R24, R27): the
engine always answers, and the cursors stay in range.
-/

namespace Sys2Proof.Machine

/-! ### Waiting and faulting -/

theorem delayStartFlow_wait {n : Tick} {m : Micro} {s t : State} (h : delayStartFlow n s = .wait m t) :
    m.needs = some .up := by
  obtain ⟨e, us, hgo | ⟨m', hm', hwait⟩⟩ := delayStartFlow_eq n s
  · simp [hgo] at h
  · obtain ⟨rfl, -⟩ := Flow.wait.inj (hwait.symm.trans h)
    obtain rfl | ⟨start, rfl⟩ := hm' <;> rfl

theorem stretchFlow_wait {i : Instr} {st : Stretch} {m : Micro} {t : State} (h : stretchFlow i st = .wait m t) :
    ∃ src, m.needs = some src := by
  cases st with
  | waitScl => cases h; exact ⟨.scl, rfl⟩
  | waitPoll => cases h; exact ⟨.poll, rfl⟩
  | released | aborted => cases h

/-- An operation waits at a micro-operation that needs an answer of the environment (R27; log 7). -/
theorem runMicro_wait_needs {i : Instr} {m m' : Micro} {s t : State} (h : runMicro i m s = .wait m' t) :
    ∃ src, m'.needs = some src := by
  cases m with
  | stretch | stretchPoll => exact stretchFlow_wait h
  | delay | delayHigh | delayLow | delayStart => exact ⟨.up, delayStartFlow_wait h⟩
  | delayLoop n start =>
    obtain ⟨e, us, hgo | hwait⟩ := delayFlow_eq n start s
    · cases hgo.symm.trans h
    · obtain ⟨rfl, -⟩ := Flow.wait.inj (hwait.symm.trans h)
      exact ⟨.up, rfl⟩
  | sample =>
    simp only [runMicro] at h
    split at h <;> cases h
    exact ⟨.sda, rfl⟩
  | storeRbuf =>
    simp only [runMicro] at h
    split at h <;> cases h
  | failOnNack k =>
    simp only [runMicro] at h
    split at h <;> cases h
  | markUptime | lapUptime | lapPin =>
    simp only [runMicro, uptimeInto] at h
    split at h <;> cases h
    exact ⟨.up, rfl⟩
  | set | setMsb | setAck | loadByte | shiftOut | shiftIn | latchAck | storeSink | missingByte | afterAddress
  | afterWrite | afterRead | goto | commit => cases h

/-- The two micro-operations that can fault (R62, R63). -/
theorem runMicro_fault {i : Instr} {m : Micro} {s : State} {f : Fault} (h : runMicro i m s = .fault f) :
    m = .missingByte ∨ (m = .storeRbuf ∧ ¬ s.rcur < s.rlen) := by
  by_cases hm : m.onWire = true
  · obtain ⟨w, hgo | ⟨m', -, hwait⟩ | ⟨e, -, hhalt⟩⟩ := runMicro_onWire i m s hm
    · cases hgo.symm.trans h
    · cases hwait.symm.trans h
    · cases hhalt.symm.trans h
  · cases m with
    | missingByte => exact .inl rfl
    | storeRbuf =>
      refine .inr ⟨rfl, fun hlt => ?_⟩
      simp [runMicro, memWriteRbuf, hlt] at h
    | failOnNack k =>
      simp only [runMicro] at h
      split at h <;> cases h
    | markUptime | lapUptime | lapPin =>
      simp only [runMicro, uptimeInto] at h
      split at h <;> cases h
    | storeSink | afterAddress | afterWrite | afterRead | goto | commit => cases h
    | _ => exact absurd rfl hm

/-- A program with neither of them answers a next state, complete or waiting (R27). -/
theorem runMicros_answers {i : Instr} {ms : List Micro} (hmissing : .missingByte ∉ ms) (hstore : .storeRbuf ∉ ms)
    (s : State) :
    ∃ t, runMicros i ms s = .next t ∧ (t.pos = .idle ∨ ∃ m ms' src, t.pos = .running i (m :: ms') ∧ m.needs = some src) := by
  have hnofault (f : Fault) : runMicros i ms s ≠ .fault f := by
    refine runMicros_no_fault (Inv := fun ms _ => .missingByte ∉ ms ∧ .storeRbuf ∉ ms) ?_ ?_ ⟨hmissing, hstore⟩ f
    · exact fun m ms _ _ ⟨hm, hs⟩ _ => ⟨(hm <| .tail m ·), (hs <| .tail m ·)⟩
    · rintro m ms u f ⟨hm, hs⟩ h
      obtain rfl | ⟨rfl, -⟩ := runMicro_fault h
      · exact hm (.head ms)
      · exact hs (.head ms)
  cases hrun : runMicros i ms s with
  | next t =>
    refine ⟨t, rfl, runMicros_induction (Inv := fun _ _ => True)
      (Q := fun t => t.pos = .idle ∨ ∃ m ms' src, t.pos = .running i (m :: ms') ∧ m.needs = some src)
      (fun _ _ _ _ _ _ => trivial) (fun m m' ms u v _ hwait => ?_) (fun _ _ _ _ _ _ => .inl rfl) (fun _ _ => .inl rfl)
      trivial hrun⟩
    obtain ⟨src, hsrc⟩ := runMicro_wait_needs hwait
    exact .inr ⟨m', ms, src, rfl, hsrc⟩
  | fault f => exact absurd hrun (hnofault f)
  | refused r => exact absurd hrun (runMicros_not_refused i ms s r)

/-- Settles O30, by `runMicros_answers`: of the two, one stands in an ill-formed WRITE alone and one in ST_READ. -/
theorem engineOperationsAlwaysAnswer : Obligations.EngineOperationsAlwaysAnswer := by
  intro i s hcls hwf
  rw [exec_eq_runMicros hcls]
  refine runMicros_answers (fun hmem => ?_) (fun hmem => ?_) _
  · have hfits : (!i.wellFormed) = true := programOf_fits_mem hmem
    simp [hwf] at hfits
  · have hfits := programOf_fits_mem hmem
    cases i with
    | stRead => simp [Instr.opClass] at hcls
    | _ => cases hfits

/-! ### The cursors -/

/-- The cursors and lengths while `ms` is to do: with the advances of `WCUR` still in `ms`, at most one, they are in range. -/
def CursorsAhead (ms : List Micro) (s : State) : Prop :=
  s.wcur + ms.count .afterWrite ≤ s.wlen ∧ ms.count .afterWrite ≤ 1 ∧ s.rcur ≤ s.rlen ∧ s.wlen < 2 ^ s.lenW ∧
    s.rlen < 2 ^ s.lenW

/-- What a micro-operation does to the cursors: `WCUR` advances at the end of write, `RCUR` not past `RLEN` (R24). -/
theorem runMicro_cursors {i : Instr} {m : Micro} {s t : State} (h : (runMicro i m s).after = some t) :
    t.wlen = s.wlen ∧ t.rlen = s.rlen ∧ t.lenW = s.lenW ∧ t.wcur = s.wcur + [m].count .afterWrite ∧
      (s.rcur ≤ s.rlen → t.rcur ≤ s.rlen) := by
  by_cases hm : m.onWire = true
  · have hcount : [m].count .afterWrite = 0 := List.count_eq_zero.mpr fun hmem => by
      obtain rfl := List.mem_singleton.mp hmem
      cases hm
    rw [hcount]
    obtain ⟨w, hgo | ⟨m', -, hwait⟩ | ⟨e, -, hhalt⟩⟩ := runMicro_onWire i m s hm
    · rw [hgo] at h
      cases h
      exact ⟨rfl, rfl, rfl, rfl, id⟩
    · rw [hwait] at h
      cases h
      exact ⟨rfl, rfl, rfl, rfl, id⟩
    · rw [hhalt] at h
      cases h
      unfold abort
      split <;> exact ⟨rfl, rfl, rfl, rfl, id⟩
  · cases m with
    | storeRbuf =>
      simp only [runMicro, memWriteRbuf] at h
      split at h
      · cases h
      · next hstore =>
        split at hstore <;> cases hstore
        cases h
        exact ⟨rfl, rfl, rfl, rfl, fun _ => Nat.succ_le_of_lt ‹_›⟩
    | afterWrite =>
      cases h
      rw [afterWrite_eq]
      exact ⟨rfl, rfl, rfl, rfl, id⟩
    | afterAddress =>
      cases h
      rw [afterAddress_eq]
      exact ⟨rfl, rfl, rfl, rfl, id⟩
    | failOnNack k =>
      simp only [runMicro] at h
      split at h <;> cases h <;> exact ⟨rfl, rfl, rfl, rfl, id⟩
    | markUptime | lapUptime | lapPin =>
      simp only [runMicro, uptimeInto] at h
      split at h
      · cases h
        exact ⟨rfl, rfl, rfl, rfl, id⟩
      · next hread =>
        obtain ⟨u, us, -, -, rfl⟩ := takeUptime_some hread
        cases h
        exact ⟨rfl, rfl, rfl, rfl, id⟩
    | storeSink | afterRead | goto | commit => cases h; exact ⟨rfl, rfl, rfl, rfl, id⟩
    | missingByte => cases h
    | _ => exact absurd rfl hm

theorem CursorsAhead.next {i : Instr} {m : Micro} {ms : List Micro} {s t : State} (hs : CursorsAhead (m :: ms) s)
    (h : (runMicro i m s).after = some t) : CursorsAhead ms t := by
  obtain ⟨hwcur, hone, hrcur, hwlen, hrlen⟩ := hs
  obtain ⟨hw, hr, hl, hcur, hread⟩ := runMicro_cursors h
  have hcount : (m :: ms).count .afterWrite = [m].count .afterWrite + ms.count .afterWrite :=
    List.count_append (l₁ := [m])
  rw [CursorsAhead, hw, hr, hl, hcur]
  exact ⟨by omega, by omega, hread hrcur, hwlen, hrlen⟩

/-- Between operations, and with `ms` still to do in one, such cursors are in range. -/
theorem CursorsAhead.cursorsInRange {i : Instr} {ms : List Micro} {s : State} (hs : CursorsAhead ms s) (p : Pos)
    (hp : p = .idle ∨ p = .polling ∨ p = .running i ms) : CursorsInRange { s with pos := p } := by
  obtain ⟨hwcur, hone, hrcur, hwlen, hrlen⟩ := hs
  refine ⟨Nat.le_of_add_right_le hwcur, hrcur, hwlen, hrlen, ?_⟩
  obtain rfl | rfl | rfl := hp
  · trivial
  · trivial
  · refine ⟨hone, fun hmem => ?_⟩
    have hpos := List.count_pos_iff.mpr hmem
    show s.wcur < s.wlen
    omega

theorem CursorsInRange.ahead {s : State} (hs : CursorsInRange s) : CursorsAhead [] s := by
  obtain ⟨hwcur, hrcur, hwlen, hrlen, -⟩ := hs
  exact ⟨hwcur, Nat.zero_le _, hrcur, hwlen, hrlen⟩

theorem CursorsInRange.ahead_running {i : Instr} {todo : List Micro} {s : State} (hs : CursorsInRange s)
    (hpos : s.pos = .running i todo) : CursorsAhead todo s := by
  obtain ⟨hwcur, hrcur, hwlen, hrlen, htodo⟩ := hs
  rw [hpos] at htodo
  obtain ⟨hone, hmem⟩ := htodo
  refine ⟨?_, hone, hrcur, hwlen, hrlen⟩
  by_cases h : Micro.afterWrite ∈ todo
  · have := hmem h
    omega
  · rw [List.count_eq_zero.mpr h]
    exact hwcur

theorem runMicros_cursorsInRange {i : Instr} {ms : List Micro} {s t : State} (h : runMicros i ms s = .next t)
    (hs : CursorsAhead ms s) : CursorsInRange t := by
  refine runMicros_induction (Inv := CursorsAhead) (fun m ms u v hu hgo => hu.next (by rw [hgo]; rfl))
    (fun m m' ms u v hu hwait => ?_) (fun m ms u v hu hhalt => ?_) (fun u hu => ?_) hs h
  · have hv : CursorsAhead ms v := hu.next (by rw [hwait]; rfl)
    have hne : m' ≠ .afterWrite := by
      rintro rfl
      obtain ⟨src, hsrc⟩ := runMicro_wait_needs hwait
      cases hsrc
    have hv' : CursorsAhead (m' :: ms) v := by rwa [CursorsAhead, List.count_cons_of_ne hne]
    exact hv'.cursorsInRange _ (.inr (.inr rfl))
  · have hv : CursorsAhead ms v := hu.next (by rw [hhalt]; rfl)
    exact hv.cursorsInRange (i := i) _ (.inl rfl)
  · exact hu.cursorsInRange (i := i) _ (.inl rfl)

/-- `WCUR` advances in no program but that of ST_WRITE, and there once. -/
theorem count_afterWrite_programOf (i : Instr) (s : State) :
    (programOf i s).count .afterWrite = if i = .stWrite then 1 else 0 := by
  split
  · next hi =>
    subst hi
    have hbyte : (writeByteProgram ((memReadWbuf s).getD 0)).count .afterWrite = 0 :=
      List.count_eq_zero.mpr fun hmem => by cases writeByteProgram_onWire _ _ hmem
    rw [programOf, List.count_append, hbyte]
    rfl
  · next hi =>
    refine List.count_eq_zero.mpr fun hmem => ?_
    have hfits := programOf_fits_mem hmem
    cases i with
    | stWrite => exact hi rfl
    | _ => cases hfits

/-- An operation begins with as many cursor steps as it has before it. -/
theorem cursorsAhead_program {i : Instr} {s : State} (hs : CursorsAhead [] s) (hwrite : i = .stWrite → s.wcur < s.wlen) :
    CursorsAhead (programOf i s) (beginning i s) := by
  obtain ⟨hwcur, -, hrcur, hwlen, hrlen⟩ := hs
  have hrange : s.wcur + (programOf i s).count .afterWrite ≤ s.wlen ∧ (programOf i s).count .afterWrite ≤ 1 := by
    rw [count_afterWrite_programOf]
    split
    · next hi => exact ⟨hwrite hi, le_rfl⟩
    · exact ⟨hwcur, Nat.zero_le _⟩
  cases i <;> exact ⟨hrange.1, hrange.2, hrcur, hwlen, hrlen⟩

theorem exec_cursorsInRange {i : Instr} {s t : State} (h : exec i s = .next t) (hs : CursorsAhead [] s)
    (hpos : s.pos = .idle) : CursorsInRange t := by
  have hidle := hs.cursorsInRange (i := i) .idle (.inl rfl)
  rw [← hpos] at hidle
  cases exec_cases h with
  | runs _ hwrite hrun => exact runMicros_cursorsInRange hrun (cursorsAhead_program hs hwrite)
  | unsupported _ _ _ ht => exact ht ▸ hidle
  | enters addr wlen wbuf rlen _ _ hwlen hrlen ht =>
    subst ht
    have hentered : CursorsAhead [] (entered addr wlen wbuf rlen s) :=
      ⟨Nat.zero_le _, Nat.zero_le _, Nat.zero_le _, hwlen, hrlen⟩
    have hrange := hentered.cursorsInRange (i := i) .idle (.inl rfl)
    rwa [← hpos] at hrange
  | returns _ _ ht => exact ht ▸ hidle
  | rests _ ht => exact ht ▸ hidle

/-- At the head of a sequencer step only the environment may have changed (R182). -/
theorem AtPoll.eq {s s0 : State} (h : AtPoll s s0) : ∃ e, s0 = { s with env := e } := by
  cases h with
  | head => exact ⟨s.env, rfl⟩
  | answered =>
    obtain ⟨e, he, -⟩ := feed_eq .poll s
    exact ⟨e, he⟩

/-- The per-step poll changes the environment and the trace (R66, R182). -/
theorem AtPoll.polled {s s0 s1 : State} {r : PollAnswer} (h : AtPoll s s0) (hp : takePoll s0 = some (r, s1)) :
    ∃ e, s1 = { s with env := e, trace := s.trace ++ [.poll r] } := by
  obtain ⟨e, rfl⟩ := h.eq
  obtain ⟨rs, -, rfl⟩ := takePoll_some hp
  exact ⟨_, rfl⟩

/-- Settles O51: an operation that waited by `runMicros_cursorsInRange`, one that begins by `exec_cursorsInRange`. -/
theorem stepKeepsCursorsInRange : Obligations.StepKeepsCursorsInRange := by
  intro s t h hs
  have hahead := hs.ahead
  cases step_cases h with
  | resume i todo hpos hrun =>
    obtain ⟨e, he, -⟩ := feedFor_eq todo s
    rw [he] at hrun
    exact runMicros_cursorsInRange hrun (hs.ahead_running hpos)
  | perform w i hpos hdec hwf hexec => exact exec_cursorsInRange hexec hahead rfl
  | pollWaits s0 hat hp ht =>
    obtain ⟨e, rfl⟩ := hat.eq
    exact ht ▸ hahead.cursorsInRange (i := .stDone) .polling (.inr (.inl rfl))
  | pollOk s0 s1 hat hp hexec =>
    obtain ⟨e, rfl⟩ := hat.polled hp
    exact exec_cursorsInRange hexec hahead rfl
  | pollFailsActs s0 s1 e hat hp hst hexec =>
    obtain ⟨e, rfl⟩ := hat.polled hp
    exact exec_cursorsInRange hexec hahead rfl
  | pollFailsSkips s0 s1 e hat hp hst ht =>
    obtain ⟨e, rfl⟩ := hat.polled hp
    exact ht ▸ hahead.cursorsInRange (i := .stDone) .idle (.inl rfl)
  | returns _ _ _ ht => exact ht ▸ hs
  | command w s0 i hidle htaken hdec hcls hwf hexec =>
    obtain ⟨hpos, -, -⟩ := State.isIdle_eq_true hidle
    cases htaken with
    | port | queue => exact exec_cursorsInRange hexec hahead hpos
  | rests _ ht => exact ht ▸ hs

end Sys2Proof.Machine
end

section
/-!
PROOFS. The run invariant (10_state.md R24; 41_wire_primitives.md R161; 42_transaction_sequencer.md R192, R194). The rest of an action is
wire-level micro-operations, which leave all that the invariant speaks of alone, and then the end that chooses the next `STATE`;
CONFIGURE is measuring, at whose end the bus is released. Each micro-operation keeps that, and so a step keeps the invariant and
does not fault.
-/

namespace Sys2Proof.Machine

/-! ### Outcomes without a fault -/

/-- The outcome is no fault, and a next state has `Q`. -/
def Sound (Q : State → Prop) : Host.Outcome State Fault Refusal → Prop
  | .next t => Q t
  | .fault _ => False
  | .refused _ => True

/-- A property of the program still to do and the state, with which every micro-operation goes on, waits or ends the operation, as
`Q` allows, makes the program sound. -/
theorem runMicros_sound {i : Instr} {Inv : List Micro → State → Prop} {Q : State → Prop}
    (hstep : ∀ m ms s, Inv (m :: ms) s → (∃ t, runMicro i m s = .go t ∧ Inv ms t) ∨
      (∃ m' t, runMicro i m s = .wait m' t ∧ Q { t with pos := .running i (m' :: ms) }) ∨
      ∃ t, runMicro i m s = .halt t ∧ Q { t with pos := .idle })
    (hend : ∀ s, Inv [] s → Q (finish i s)) {ms : List Micro} {s : State} (hs : Inv ms s) :
    Sound Q (runMicros i ms s) := by
  induction ms generalizing s with
  | nil => exact hend s hs
  | cons m ms ih =>
    obtain ⟨t, hgo, ht⟩ | ⟨m', t, hwait, ht⟩ | ⟨t, hhalt, ht⟩ := hstep m ms s hs
    · rw [runMicros_go ms hgo]
      exact ih ht
    · rw [runMicros_wait ms hwait]
      exact ht
    · rw [runMicros_halt ms hhalt]
      exact ht

/-! ### The latches after the pin sets to come -/

/-- A delay, or a part of one (R131). -/
def Micro.ofDelay : Micro → Bool
  | .delay _ | .delayHigh | .delayLow | .delayStart _ | .delayLoop _ _ => true
  | _ => false

theorem settle_ofDelay {m : Micro} (hm : m.ofDelay = true) (ms : List Micro) (l : Bit × Bit) :
    settle (m :: ms) l = settle ms l := by
  cases m with
  | delay | delayHigh | delayLow | delayStart | delayLoop => rfl
  | _ => cases hm

theorem Micro.ofStop_of_ofDelay {m : Micro} (hm : m.ofDelay = true) : m.ofStop = true := by
  cases m with
  | delay | delayHigh | delayLow | delayStart | delayLoop => rfl
  | _ => cases hm

theorem Micro.onWire_of_ofStop {m : Micro} (hm : m.ofStop = true) : m.onWire = true := by
  cases m with
  | set | delay | delayHigh | delayLow | delayStart | delayLoop => rfl
  | _ => cases hm

/-- A delay goes on or waits at a part of itself, having read the clock (R131). -/
theorem runMicro_ofDelay (i : Instr) {m : Micro} (s : State) (hm : m.ofDelay = true) :
    ∃ e us, runMicro i m s = .go { s with env := e, trace := s.trace ++ us } ∨
      ∃ m', m'.ofDelay = true ∧ runMicro i m s = .wait m' { s with env := e, trace := s.trace ++ us } := by
  have hpart {n : Tick} {m' : Micro} (h : m' = .delayStart n ∨ ∃ start, m' = .delayLoop n start) : m'.ofDelay = true := by
    obtain rfl | ⟨start, rfl⟩ := h <;> rfl
  have hwhole (n : Tick) := delayWhole_eq n s
  cases m with
  | delay n =>
    obtain ⟨e, us, h | ⟨m', hm', h⟩⟩ := hwhole n
    exacts [⟨e, us, .inl h⟩, ⟨e, us, .inr ⟨m', hpart hm', h⟩⟩]
  | delayHigh =>
    obtain ⟨e, us, h | ⟨m', hm', h⟩⟩ := hwhole s.highBudget
    exacts [⟨e, us, .inl h⟩, ⟨e, us, .inr ⟨m', hpart hm', h⟩⟩]
  | delayLow =>
    obtain ⟨e, us, h | ⟨m', hm', h⟩⟩ := hwhole s.lowBudget
    exacts [⟨e, us, .inl h⟩, ⟨e, us, .inr ⟨m', hpart hm', h⟩⟩]
  | delayStart n =>
    obtain ⟨e, us, h | ⟨m', hm', h⟩⟩ := delayStartFlow_eq n s
    exacts [⟨e, us, .inl h⟩, ⟨e, us, .inr ⟨m', hpart hm', h⟩⟩]
  | delayLoop n start =>
    obtain ⟨e, us, h | h⟩ := delayFlow_eq n start s
    exacts [⟨e, us, .inl h⟩, ⟨e, us, .inr ⟨_, rfl, h⟩⟩]
  | _ => cases hm

/-- A micro-operation of SEND_STOP goes on, or waits at another, with the latches on the way to where they were to settle. -/
theorem runMicro_ofStop (i : Instr) {m : Micro} (s : State) (hm : m.ofStop = true) :
    ∃ w, (runMicro i m s = .go (s.setWire w) ∧
        ∀ ms, settle ms (w.sclOut, w.sdaOut) = settle (m :: ms) (s.sclOut, s.sdaOut)) ∨
      ∃ m', m'.ofStop = true ∧ runMicro i m s = .wait m' (s.setWire w) ∧
        ∀ ms, settle (m' :: ms) (w.sclOut, w.sdaOut) = settle (m :: ms) (s.sclOut, s.sdaOut) := by
  have hdelay (hd : m.ofDelay = true) := runMicro_ofDelay i s hd
  cases m with
  | set p b =>
    cases p with
    | scl => exact ⟨{ s.wire with sclOut := b, trace := s.trace ++ [.set .scl b] }, .inl ⟨rfl, fun _ => rfl⟩⟩
    | sda => exact ⟨{ s.wire with sdaOut := b, trace := s.trace ++ [.set .sda b] }, .inl ⟨rfl, fun _ => rfl⟩⟩
  | delay | delayHigh | delayLow | delayStart | delayLoop =>
    obtain ⟨e, us, h | ⟨m', hm', h⟩⟩ := hdelay rfl
    · exact ⟨{ s.wire with env := e, trace := s.trace ++ us }, .inl ⟨h, fun _ => rfl⟩⟩
    · exact ⟨{ s.wire with env := e, trace := s.trace ++ us }, .inr ⟨m', Micro.ofStop_of_ofDelay hm', h,
        fun ms => settle_ofDelay hm' ms _⟩⟩
  | _ => cases hm

/-! ### The rest of an action -/

/-- The wire-level micro-operations an action has before its end; in a stop (`stop`) they release the bus (R150 to R156, R161). -/
def WireRest (stop : Bool) (s : State) (pre : List Micro) : Prop :=
  pre.all Micro.onWire = true ∧
    (stop = true → pre.all Micro.ofStop = true ∧ settle pre (s.sclOut, s.sdaOut) = (true, true))

/-- The end that the action of `STATE` has after its wire-level micro-operations, or the store and the rest of action(read); whether
the action is a stop (R183 to R189). -/
inductive ActionEnd (s : State) : Bool → List Micro → Prop
  | start (hst : s.seqState = .start ∨ s.seqState = .repeatedStart) : ActionEnd s false [.goto .writeAddress]
  | address (hst : s.seqState = .writeAddress) : ActionEnd s false [.afterAddress]
  | write (hst : s.seqState = .write) (hcur : s.wcur < s.wlen) : ActionEnd s false [.afterWrite]
  | receive {mid : List Micro} (hst : s.seqState = .read) (hwcur : s.wcur = s.wlen) (hrcur : s.rcur < s.rlen)
      (hmid : mid.all Micro.onWire = true) : ActionEnd s false (.storeRbuf :: (mid ++ [.afterRead]))
  | acknowledge (hst : s.seqState = .read) (hwcur : s.wcur = s.wlen) : ActionEnd s false [.afterRead]
  | stop (hst : (s.seqState = .sendStop ∧ s.wcur = s.wlen ∧ s.rcur = s.rlen) ∨ (s.seqState = .busError ∧ s.err ≠ .none)) :
      ActionEnd s true [.goto .done]

/-- What is to do in the action of `STATE`: wire-level micro-operations, then its end. -/
def ActionRest (s : State) (todo : List Micro) : Prop :=
  ∃ stop pre post, todo = pre ++ post ∧ WireRest stop s pre ∧ ActionEnd s stop post

theorem wireRest_of_onWire {s : State} {pre : List Micro} (h : pre.all Micro.onWire = true) : WireRest false s pre :=
  ⟨h, nofun⟩

theorem wireRest_of_ofStop {s : State} {pre : List Micro} (h : pre.all Micro.ofStop = true)
    (hsettle : settle pre (s.sclOut, s.sdaOut) = (true, true)) : WireRest true s pre :=
  ⟨List.all_eq_true.mpr fun m hm => Micro.onWire_of_ofStop (List.all_eq_true.mp h m hm), fun _ => ⟨h, hsettle⟩⟩

theorem actionRest_of_actionHolds {s : State} {todo : List Micro} (h : actionHolds s todo) : ActionRest s todo := by
  cases hst : s.seqState <;> simp only [actionHolds, hst] at h
  case start =>
    obtain ⟨pre, rfl, hpre⟩ := h
    exact ⟨_, pre, _, rfl, wireRest_of_onWire hpre, .start (.inl hst)⟩
  case repeatedStart =>
    obtain ⟨pre, rfl, hpre⟩ := h
    exact ⟨_, pre, _, rfl, wireRest_of_onWire hpre, .start (.inr hst)⟩
  case writeAddress =>
    obtain ⟨pre, rfl, hpre⟩ := h
    exact ⟨_, pre, _, rfl, wireRest_of_onWire hpre, .address hst⟩
  case write =>
    obtain ⟨hcur, pre, rfl, hpre⟩ := h
    exact ⟨_, pre, _, rfl, wireRest_of_onWire hpre, .write hst hcur⟩
  case read =>
    obtain ⟨hwcur, ⟨hrcur, pre, mid, rfl, hpre, hmid⟩ | ⟨mid, rfl, hmid⟩⟩ := h
    · exact ⟨_, pre, _, by simp, wireRest_of_onWire hpre, .receive hst hwcur hrcur hmid⟩
    · exact ⟨_, mid, _, rfl, wireRest_of_onWire hmid, .acknowledge hst hwcur⟩
  case sendStop =>
    obtain ⟨hcur, pre, rfl, hpre, hsettle⟩ := h
    exact ⟨_, pre, _, rfl, wireRest_of_ofStop hpre hsettle, .stop (.inl ⟨hst, hcur⟩)⟩
  case busError =>
    obtain ⟨herr, pre, rfl, hpre, hsettle⟩ := h
    exact ⟨_, pre, _, rfl, wireRest_of_ofStop hpre hsettle, .stop (.inr ⟨hst, herr⟩)⟩

theorem actionHolds_of_actionRest {s : State} {todo : List Micro} (h : ActionRest s todo) : actionHolds s todo := by
  obtain ⟨stop, pre, post, rfl, ⟨hpre, hstop⟩, hend⟩ := h
  cases hend with
  | start hst => obtain hst | hst := hst <;> simp only [actionHolds, hst] <;> exact ⟨pre, rfl, hpre⟩
  | address hst => simp only [actionHolds, hst]; exact ⟨pre, rfl, hpre⟩
  | write hst hcur => simp only [actionHolds, hst]; exact ⟨hcur, pre, rfl, hpre⟩
  | @receive mid hst hwcur hrcur hmid =>
    simp only [actionHolds, hst]
    exact ⟨hwcur, .inl ⟨hrcur, pre, mid, by simp, hpre, hmid⟩⟩
  | acknowledge hst hwcur => simp only [actionHolds, hst]; exact ⟨hwcur, .inr ⟨pre, rfl, hpre⟩⟩
  | stop hst =>
    obtain ⟨hst, hrest⟩ | ⟨hst, hrest⟩ := hst <;> simp only [actionHolds, hst] <;> exact ⟨hrest, pre, rfl, hstop rfl⟩

/-- Wire-level micro-operations leave the end of the action as it is. -/
theorem ActionEnd.setWire {stop : Bool} {s : State} {post : List Micro} (h : ActionEnd s stop post) (w : Wire) :
    ActionEnd (s.setWire w) stop post := by
  cases h with
  | start hst => exact .start hst
  | address hst => exact .address hst
  | write hst hcur => exact .write hst hcur
  | receive hst hwcur hrcur hmid => exact .receive hst hwcur hrcur hmid
  | acknowledge hst hwcur => exact .acknowledge hst hwcur
  | stop hst => exact .stop hst

theorem all_cons_of {p : Micro → Bool} {m : Micro} {ms : List Micro} (hm : p m = true) (hms : ms.all p = true) :
    (m :: ms).all p = true := by rw [List.all_cons, hm, hms]; rfl

/-- The next wire-level micro-operation of an action goes on, waits with such a rest before it, or its callback fails. -/
theorem WireRest.next (i : Instr) {stop : Bool} {s : State} {m : Micro} {pre : List Micro}
    (h : WireRest stop s (m :: pre)) :
    ∃ w, (runMicro i m s = .go (s.setWire w) ∧ WireRest stop (s.setWire w) pre) ∨
      (∃ m', runMicro i m s = .wait m' (s.setWire w) ∧ WireRest stop (s.setWire w) (m' :: pre)) ∨
      ∃ e, runMicro i m s = .halt (abort i e (s.setWire w)) := by
  obtain ⟨hwire, hstop⟩ := h
  cases stop with
  | false =>
    obtain ⟨hm, hpre⟩ : m.onWire = true ∧ pre.all Micro.onWire = true := by
      simpa only [List.all_cons, Bool.and_eq_true] using hwire
    obtain ⟨w, hgo | ⟨m', hm', hwait⟩ | ⟨e, -, hhalt⟩⟩ := runMicro_onWire i m s hm
    · exact ⟨w, .inl ⟨hgo, wireRest_of_onWire hpre⟩⟩
    · exact ⟨w, .inr (.inl ⟨m', hwait, wireRest_of_onWire (all_cons_of hm' hpre)⟩)⟩
    · exact ⟨w, .inr (.inr ⟨e, hhalt⟩)⟩
  | true =>
    obtain ⟨hofStop, hsettle⟩ := hstop rfl
    obtain ⟨hm, hpre⟩ : m.ofStop = true ∧ pre.all Micro.ofStop = true := by
      simpa only [List.all_cons, Bool.and_eq_true] using hofStop
    obtain ⟨w, ⟨hgo, hlatches⟩ | ⟨m', hm', hwait, hlatches⟩⟩ := runMicro_ofStop i s hm
    · exact ⟨w, .inl ⟨hgo, wireRest_of_ofStop hpre ((hlatches pre).trans hsettle)⟩⟩
    · exact ⟨w, .inr (.inl ⟨m', hwait, wireRest_of_ofStop (all_cons_of hm' hpre) ((hlatches pre).trans hsettle)⟩)⟩

/-- What holds throughout a transaction: the cursors are in range, and WBUF holds every byte (R24, R62). -/
def TxnHolds (s : State) : Prop :=
  s.wcur ≤ s.wlen ∧ s.rcur ≤ s.rlen ∧ s.inTxn = true ∧ ∀ k, k < s.wlen → (Memory.read s.wbuf k).isSome

/-- Inside the action of `STATE` with `ms` to do, or right after it. -/
def ActionInv (i : Instr) (ms : List Micro) (s : State) : Prop :=
  TxnHolds s ∧ ((i = s.seqState.instr ∧ ActionRest s ms) ∨ (ms = [] ∧ phaseHolds s))

/-! ### The end of an action -/

theorem phaseHolds_of_busError {s : State} (hst : s.seqState = .busError) (herr : s.err ≠ .none) : phaseHolds s := by
  simpa only [phaseHolds, hst]

/-- The chosen successor is the one whose phase holds (R185, R186, R192). -/
theorem phaseHolds_successor {s : State} {pending : SeqState} (hp : pending = .read ∨ pending = .repeatedStart)
    (hwcur : s.wcur ≤ s.wlen) (hrcur : s.rcur ≤ s.rlen) :
    phaseHolds { s with seqState := successor s .write pending } := by
  unfold successor
  split
  · next hlt => exact hlt
  · next hwge =>
    have hw : s.wcur = s.wlen := by omega
    split
    · next hlt => obtain rfl | rfl := hp <;> exact ⟨hw, hlt⟩
    · next hrge => exact ⟨hw, by show s.rcur = s.rlen; omega⟩

theorem phaseHolds_afterAddress {s : State} (hs : TxnHolds s) : phaseHolds (afterAddress s) := by
  obtain ⟨hwcur, hrcur, -, -⟩ := hs
  unfold afterAddress
  split
  · exact phaseHolds_successor (.inl rfl) hwcur hrcur
  · exact phaseHolds_of_busError rfl (latchError_ne_none _ (by simp))

theorem phaseHolds_afterWrite {s : State} (hs : TxnHolds s) (hlt : s.wcur < s.wlen) : phaseHolds (afterWrite s) := by
  obtain ⟨-, hrcur, -, -⟩ := hs
  simp only [afterWrite]
  split
  · exact phaseHolds_successor (s := { s with wcur := s.wcur + 1 }) (.inr rfl) hlt hrcur
  · exact phaseHolds_of_busError rfl (latchError_ne_none _ (by simp))

/-- The store of the received byte, within RBUF (R63, R187). -/
theorem runMicro_storeRbuf (i : Instr) {s : State} (hlt : s.rcur < s.rlen) :
    runMicro i .storeRbuf s = .go { s with
      rbuf := Memory.write s.rbuf s.rcur s.shreg, rcur := s.rcur + 1
      trace := s.trace ++ [.wroteRbuf s.rcur s.shreg] } := by
  simp [runMicro, memWriteRbuf, hlt, emit]

/-- The end of an action goes on, into the next `STATE`'s phase; the store of a received byte, into its acknowledge cell. -/
theorem ActionEnd.next {stop : Bool} {s : State} {m : Micro} {ms : List Micro} (h : ActionEnd s stop (m :: ms))
    (hs : TxnHolds s) (hlatches : stop = true → (s.sclOut, s.sdaOut) = (true, true)) :
    ∃ t, runMicro s.seqState.instr m s = .go t ∧ ActionInv s.seqState.instr ms t := by
  have hs' := hs
  obtain ⟨hwcur, hrcur, htxn, hbuf⟩ := hs
  cases h with
  | start => exact ⟨_, rfl, hs', .inr ⟨rfl, trivial⟩⟩
  | address =>
    refine ⟨_, rfl, ?_, .inr ⟨rfl, phaseHolds_afterAddress hs'⟩⟩
    rw [afterAddress_eq]
    exact hs'
  | write _ hlt =>
    refine ⟨_, rfl, ?_, .inr ⟨rfl, phaseHolds_afterWrite hs' hlt⟩⟩
    rw [afterWrite_eq]
    exact ⟨hlt, hrcur, htxn, hbuf⟩
  | @receive mid hst hw hlt hmid =>
    exact ⟨_, runMicro_storeRbuf _ hlt, ⟨hwcur, hlt, htxn, hbuf⟩,
      .inl ⟨rfl, _, mid, _, rfl, wireRest_of_onWire hmid, .acknowledge hst hw⟩⟩
  | acknowledge _ hw =>
    refine ⟨_, rfl, hs', .inr ⟨rfl, ?_⟩⟩
    show phaseHolds { s with seqState := if s.rcur < s.rlen then .read else .sendStop }
    split
    · next hlt => exact ⟨hw, hlt⟩
    · next hge => exact ⟨hw, by show s.rcur = s.rlen; omega⟩
  | stop hst =>
    obtain ⟨hscl, hsda⟩ := Prod.mk.inj (hlatches rfl)
    refine ⟨_, rfl, ⟨hwcur, hrcur, htxn, hbuf⟩, .inr ⟨rfl, hscl, hsda, fun _ herr => ?_⟩⟩
    obtain ⟨-, hcur⟩ | ⟨-, hne⟩ := hst
    · exact hcur
    · exact absurd herr hne

/-! ### A whole action -/

/-- Between operations of a transaction with the phase of `STATE`. -/
theorem runInv_idle {s : State} (hs : TxnHolds s) (hphase : phaseHolds s) : RunInv { s with pos := .idle } := by
  obtain ⟨hwcur, hrcur, htxn, hbuf⟩ := hs
  exact ⟨hwcur, hrcur, fun _ => ⟨htxn, hbuf⟩, hphase⟩

/-- At an operation other than CONFIGURE the invariant is that of the action of `STATE`. -/
theorem runInv_running_iff {i : Instr} {s : State} {todo : List Micro} (hpos : s.pos = .running i todo)
    (hi : ∀ rate, i ≠ .configure rate) :
    RunInv s ↔ s.wcur ≤ s.wlen ∧ s.rcur ≤ s.rlen ∧
      (s.seqState ≠ .done → s.inTxn = true ∧ ∀ k, k < s.wlen → (Memory.read s.wbuf k).isSome) ∧
      i = s.seqState.instr ∧ actionHolds s todo := by
  cases i with
  | configure rate => exact absurd rfl (hi rate)
  | _ => simp only [RunInv, hpos]

theorem SeqState.instr_ne_configure (st : SeqState) (rate : Nat) : st.instr ≠ .configure rate := by
  cases st <;> simp [SeqState.instr]

/-- Inside the action of `STATE`. -/
theorem runInv_running {s : State} {ms : List Micro} (hs : TxnHolds s) (hrest : ActionRest s ms) :
    RunInv { s with pos := .running s.seqState.instr ms } := by
  obtain ⟨hwcur, hrcur, htxn, hbuf⟩ := hs
  have haction := actionHolds_of_actionRest hrest
  exact (runInv_running_iff rfl s.seqState.instr_ne_configure).mpr ⟨hwcur, hrcur, fun _ => ⟨htxn, hbuf⟩, rfl, haction⟩

/-- The rest of an action is sound: it never faults, and where it stops, the run invariant holds. -/
theorem runMicros_action_sound {i : Instr} {ms : List Micro} {s : State} (h : ActionInv i ms s) :
    Sound RunInv (runMicros i ms s) := by
  refine runMicros_sound (Inv := ActionInv i) ?_ ?_ h
  · rintro m ms s ⟨hs, ⟨rfl, stop, pre, post, hms, hpre, hend⟩ | ⟨hms, -⟩⟩
    · cases pre with
      | nil =>
        subst hms
        obtain ⟨-, hsettle⟩ := hpre
        exact .inl (hend.next hs fun hstop => (hsettle hstop).2)
      | cons m' pre =>
        obtain ⟨rfl, rfl⟩ := List.cons.inj hms
        obtain ⟨w, ⟨hgo, hrest⟩ | ⟨m', hwait, hrest⟩ | ⟨e, hhalt⟩⟩ := hpre.next s.seqState.instr
        · exact .inl ⟨_, hgo, hs, .inl ⟨rfl, stop, pre, post, rfl, hrest, hend.setWire w⟩⟩
        · refine .inr (.inl ⟨m', _, hwait, ?_⟩)
          exact runInv_running (s := s.setWire w) hs ⟨stop, m' :: pre, post, rfl, hrest, hend.setWire w⟩
        · refine .inr (.inr ⟨_, hhalt, ?_⟩)
          rw [abort, SeqState.instr_opClass]
          exact runInv_idle hs (phaseHolds_of_busError rfl (latchError_ne_none _ (by simp)))
    · cases hms
  · rintro s ⟨hs, ⟨-, stop, pre, post, hms, -, hend⟩ | ⟨-, hphase⟩⟩
    · obtain ⟨-, rfl⟩ := List.append_eq_nil_iff.mp hms.symm
      cases hend
    · exact runInv_idle hs hphase

/-- The action of a `STATE` whose phase holds is sound (R183 to R189). -/
theorem exec_action_sound {s : State} (hs : TxnHolds s) (hphase : phaseHolds s) (hdone : s.seqState ≠ .done) :
    Sound RunInv (exec s.seqState.instr s) := by
  have hrun {stop : Bool} {pre post : List Micro} {st : SeqState} {u : State} (hst : u.seqState = st) (hu : TxnHolds u)
      (hpre : WireRest stop u pre) (hend : ActionEnd u stop post) : Sound RunInv (runMicros st.instr (pre ++ post) u) :=
    runMicros_action_sound ⟨hu, .inl ⟨by rw [hst], stop, pre, post, rfl, hpre, hend⟩⟩
  cases hst : s.seqState <;> simp only [phaseHolds, hst] at hphase
  case start => exact hrun hst hs (wireRest_of_onWire (pre := startProgram) rfl) (.start (.inl hst))
  case repeatedStart => exact hrun hst hs (wireRest_of_onWire (pre := startProgram) rfl) (.start (.inr hst))
  case writeAddress =>
    have hbyte := writeByteProgram_onWire (addressByte s.addr (rwBit s))
    exact hrun hst hs (wireRest_of_onWire (List.all_eq_true.mpr hbyte)) (.address hst)
  case write =>
    obtain ⟨v, hv⟩ : ∃ v, Memory.read s.wbuf s.wcur = some v := by
      obtain ⟨-, -, -, hbuf⟩ := hs
      exact Option.isSome_iff_exists.mp (hbuf s.wcur hphase)
    rw [SeqState.instr, exec_stWrite hphase hv]
    have hbyte := writeByteProgram_onWire v
    exact hrun (st := .write) hst hs (wireRest_of_onWire (List.all_eq_true.mpr hbyte)) (.write hst hphase)
  case read =>
    obtain ⟨hw, hlt⟩ := hphase
    rw [SeqState.instr, exec_stRead, List.append_assoc]
    exact hrun (st := .read) hst hs (wireRest_of_onWire (pre := readByteProgram) rfl)
      (.receive (mid := writeCell .setAck) hst hw hlt rfl)
  case sendStop =>
    exact hrun hst hs (wireRest_of_ofStop (pre := stopProgram) rfl rfl) (.stop (.inl ⟨hst, hphase⟩))
  case busError =>
    exact hrun hst hs (wireRest_of_ofStop (pre := stopProgram) rfl rfl) (.stop (.inr ⟨hst, hphase⟩))
  case done => exact absurd hst hdone

/-! ### CONFIGURE and TRANSACTION -/

/-- Inside CONFIGURE with `ms` to do, or right after it: no transaction runs, and the bus will be released. -/
def ConfigureInv (ms : List Micro) (s : State) : Prop :=
  s.wcur ≤ s.wlen ∧ s.rcur ≤ s.rlen ∧ s.seqState = .done ∧ s.inTxn = false ∧ ms.all Micro.ofCalibration = true ∧
    settle ms (s.sclOut, s.sdaOut) = (true, true)

theorem ConfigureInv.runInv {ms : List Micro} {s : State} (h : ConfigureInv ms s) (rate : Nat) :
    RunInv { s with pos := .running (.configure rate) ms } := by
  obtain ⟨hwcur, hrcur, hst, htxn, hms, hsettle⟩ := h
  exact ⟨hwcur, hrcur, fun hne => absurd hst hne, hst, htxn, hms, hsettle⟩

/-- A clock read leaves the latches and all else the invariant speaks of alone (R125, R126). -/
theorem ConfigureInv.uptimeInto {i : Instr} {m : Micro} {ms : List Micro} {s : State} {keep : Tick → Locals → Locals}
    (h : ConfigureInv (m :: ms) s) (hms : ms.all Micro.ofCalibration = true)
    (hsettle : settle ms (s.sclOut, s.sdaOut) = (true, true)) (hm : runMicro i m s = Machine.uptimeInto m keep s) :
    (∃ t, runMicro i m s = .go t ∧ ConfigureInv ms t) ∨ runMicro i m s = .wait m s := by
  obtain ⟨hwcur, hrcur, hst, htxn, -, -⟩ := h
  obtain hwait | ⟨t, rest, hgo⟩ := uptimeInto_cases m keep s
  · exact .inr (hm.trans hwait)
  · exact .inl ⟨_, hm.trans hgo, hwcur, hrcur, hst, htxn, hms, hsettle⟩

/-- A micro-operation of CONFIGURE goes on or waits. -/
theorem ConfigureInv.next (i : Instr) {m : Micro} {ms : List Micro} {s : State} (h : ConfigureInv (m :: ms) s) :
    (∃ t, runMicro i m s = .go t ∧ ConfigureInv ms t) ∨ runMicro i m s = .wait m s := by
  have h' := h
  obtain ⟨hwcur, hrcur, hst, htxn, hms, hsettle⟩ := h
  obtain ⟨hm, hms⟩ : m.ofCalibration = true ∧ ms.all Micro.ofCalibration = true := by
    simpa only [List.all_cons, Bool.and_eq_true] using hms
  cases m with
  | set p b => cases p <;> exact .inl ⟨_, rfl, hwcur, hrcur, hst, htxn, hms, hsettle⟩
  | markUptime => exact h'.uptimeInto (keep := keepMark) hms hsettle rfl
  | lapUptime => exact h'.uptimeInto (keep := keepLap) hms hsettle rfl
  | lapPin p => exact h'.uptimeInto (keep := keepOverhead p) hms hsettle rfl
  | commit => exact .inl ⟨_, rfl, hwcur, hrcur, hst, htxn, hms, hsettle⟩
  | _ => cases hm

theorem runMicros_configure_sound {rate : Nat} {ms : List Micro} {s : State} (h : ConfigureInv ms s) :
    Sound RunInv (runMicros (.configure rate) ms s) := by
  refine runMicros_sound (Inv := ConfigureInv) (fun m ms s hs => ?_) (fun s hs => ?_) h
  · obtain hgo | hwait := hs.next (.configure rate)
    · exact .inl hgo
    · exact .inr (.inl ⟨m, s, hwait, hs.runInv rate⟩)
  · obtain ⟨hwcur, hrcur, hst, htxn, -, hlatches⟩ := hs
    obtain ⟨hscl, hsda⟩ := Prod.mk.inj hlatches
    refine ⟨hwcur, hrcur, fun hne => absurd hst hne, ?_⟩
    show phaseHolds (finish (.configure rate) s)
    simp only [phaseHolds, finish_seqState, hst]
    exact ⟨hscl, hsda, fun hin => by simp [htxn] at hin⟩

/-- Between operations the run invariant is that of the phase of `STATE`. -/
theorem runInv_idle_iff {s : State} (hpos : s.pos = .idle) : RunInv s ↔ s.wcur ≤ s.wlen ∧ s.rcur ≤ s.rlen ∧
    (s.seqState ≠ .done → s.inTxn = true ∧ ∀ k, k < s.wlen → (Memory.read s.wbuf k).isSome) ∧ phaseHolds s := by
  simp only [RunInv, hpos]

theorem phaseHolds_done {s : State} (hst : s.seqState = .done) : phaseHolds s ↔ s.sclOut = true ∧ s.sdaOut = true ∧
    (s.inTxn = true → s.err = .none → s.wcur = s.wlen ∧ s.rcur = s.rlen) := by
  simp only [phaseHolds, hst]

/-- A command on an idle block is sound. -/
theorem exec_command_sound {i : Instr} {s : State} (hs : RunInv s) (hidle : s.isIdle = true) (hcls : i.opClass = .host)
    (hwf : i.wellFormed = true) : Sound RunInv (exec i s) := by
  obtain ⟨hpos, hst, htxn⟩ := State.isIdle_eq_true hidle
  obtain ⟨hwcur, hrcur, -, hphase⟩ := (runInv_idle_iff hpos).mp hs
  obtain ⟨rate, rfl⟩ | ⟨addr, wlen, wbuf, rlen, rfl⟩ := Instr.opClass_host hcls
  · simp only [exec, execConfigure]
    split
    · trivial
    · split
      · trivial
      · split
        · exact hs
        · exact runMicros_configure_sound ⟨hwcur, hrcur, hst, htxn, rfl, rfl⟩
  · cases h : exec (.transaction addr wlen wbuf rlen) s with
    | next t =>
      obtain rfl := exec_transaction_next h
      have hpos' : (entered addr wlen wbuf rlen s).pos = .idle := hpos
      refine (runInv_idle_iff hpos').mpr ⟨Nat.zero_le _, Nat.zero_le _, fun _ => ⟨rfl, fun k hk => ?_⟩, trivial⟩
      have hlen : wbuf.length = wlen := by simpa [Instr.wellFormed, bufferOk] using hwf
      show (Memory.read (Memory.ofBytes wbuf) k).isSome
      rw [Memory.read_ofBytes, List.getElem?_eq_getElem (hlen ▸ hk)]
      rfl
    | fault f =>
      simp only [exec, execTransaction] at h
      split at h
      · cases h
      · split at h
        · cases h
        · split at h <;> cases h
    | refused r => trivial

/-! ### A step -/

/-- At the head of a sequencer step the phase of `STATE` holds. -/
theorem AtPoll.phase {s s0 : State} (h : AtPoll s s0) (hs : RunInv s) :
    TxnHolds s ∧ phaseHolds s ∧ s.seqState ≠ .done := by
  cases h with
  | head hpos hst =>
    obtain ⟨hwcur, hrcur, htxn, hphase⟩ := (runInv_idle_iff hpos).mp hs
    obtain ⟨hin, hbuf⟩ := htxn hst
    exact ⟨⟨hwcur, hrcur, hin, hbuf⟩, hphase, hst⟩
  | answered hpos =>
    simp only [RunInv, hpos] at hs
    obtain ⟨hwcur, hrcur, htxn, hst, hphase⟩ := hs
    obtain ⟨hin, hbuf⟩ := htxn hst
    exact ⟨⟨hwcur, hrcur, hin, hbuf⟩, hphase, hst⟩

/-- A failing poll leaves the phase of a `STATE` that stops as it is (R182). -/
theorem phaseHolds_latch {s : State} (hstops : s.seqState.stops = true) (hphase : phaseHolds s) (e : TimeoutErr) :
    phaseHolds { s with err := latchError s.err (.timeout e) } := by
  obtain hst | hst := (SeqState.stops_iff _).mp hstops
  · simp only [phaseHolds, hst] at hphase ⊢
    exact hphase
  · exact phaseHolds_of_busError hst (latchError_ne_none _ (by simp))

theorem sequencerTurn_sound {s s0 : State} (hat : AtPoll s s0) (hs : RunInv s) :
    Sound RunInv (runTurn (sequencerTurn s0)) := by
  obtain ⟨htxn, hphase, hst⟩ := hat.phase hs
  unfold sequencerTurn
  cases hp : takePoll s0 with
  | none =>
    obtain ⟨e, rfl⟩ := hat.eq
    obtain ⟨hwcur, hrcur, hin, hbuf⟩ := htxn
    exact ⟨hwcur, hrcur, fun _ => ⟨hin, hbuf⟩, hst, hphase⟩
  | some answer =>
    obtain ⟨r, s1⟩ := answer
    obtain ⟨e, rfl⟩ := hat.polled hp
    cases r with
    | ok =>
      exact exec_action_sound (s := { s with pos := .idle, env := e, trace := s.trace ++ [.poll .ok] }) htxn hphase hst
    | fail k =>
      by_cases hstops : s.seqState.stops = true
      · simp only [hstops, pollFailed, if_true]
        exact exec_action_sound (s := { s with
          pos := .idle, env := e, trace := s.trace ++ [.poll (.fail k)], err := latchError s.err (.timeout k) })
          htxn (phaseHolds_latch hstops hphase k) hst
      · simp only [hstops, pollFailed]
        exact runInv_idle (s := raise (.timeout k) { s with env := e, trace := s.trace ++ [.poll (.fail k)] }) htxn
          (phaseHolds_of_busError rfl (latchError_ne_none _ (by simp)))

theorem commandTurn_sound {w : OpWord} {s : State} (hs : RunInv s) (hidle : s.isIdle = true) :
    Sound RunInv (runTurn (commandTurn w s)) := by
  unfold commandTurn
  cases hdec : decode w with
  | error => trivial
  | ok i =>
    cases hcls : i.opClass with
    | host =>
      by_cases hwf : i.wellFormed = true
      · simp only [hcls, hwf, if_true]
        exact exec_command_sound hs hidle hcls hwf
      · simp only [hcls, hwf]
        trivial
    | _ =>
      simp only [hcls]
      trivial

theorem hostTurn_sound {s : State} (hs : RunInv s) (hidle : s.isIdle = true) : Sound RunInv (runTurn (hostTurn s)) := by
  obtain ⟨w, -, h⟩ | ⟨w, ws, -, -, h⟩ | h := hostTurn_cases s <;> rw [h]
  · exact commandTurn_sound (s := { s with port := none }) hs hidle
  · exact commandTurn_sound (s := { s with queue := ws }) hs hidle
  · exact hs

/-- The return leaves the bus released (R161, R190). -/
theorem runInv_returnToHost {s : State} (hs : RunInv s) (hpos : s.pos = .idle) (hst : s.seqState = .done) :
    RunInv (returnToHost s) := by
  obtain ⟨hwcur, hrcur, -, hphase⟩ := (runInv_idle_iff hpos).mp hs
  obtain ⟨hscl, hsda, -⟩ := (phaseHolds_done hst).mp hphase
  have hpos' : (returnToHost s).pos = .idle := hpos
  have hst' : (returnToHost s).seqState = .done := hst
  exact (runInv_idle_iff hpos').mpr ⟨hwcur, hrcur, fun hne => absurd hst hne,
    (phaseHolds_done hst').mpr ⟨hscl, hsda, fun hin => by simp at hin⟩⟩

/-- An operation that waited: the calibration of CONFIGURE, or the action of `STATE`. -/
theorem RunInv.running {i : Instr} {todo : List Micro} {s : State} (hs : RunInv s) (hpos : s.pos = .running i todo) :
    (∃ rate, i = .configure rate ∧ ConfigureInv todo s) ∨ ActionInv i todo s := by
  by_cases hi : ∃ rate, i = .configure rate
  · obtain ⟨rate, rfl⟩ := hi
    simp only [RunInv, hpos] at hs
    obtain ⟨hwcur, hrcur, -, hst, htxn, htodo, hsettle⟩ := hs
    exact .inl ⟨rate, rfl, hwcur, hrcur, hst, htxn, htodo, hsettle⟩
  · obtain ⟨hwcur, hrcur, htxn, hinstr, haction⟩ := (runInv_running_iff hpos fun rate h => hi ⟨rate, h⟩).mp hs
    have hst : s.seqState ≠ .done := fun hst => by simp [actionHolds, hst] at haction
    obtain ⟨hin, hbuf⟩ := htxn hst
    exact .inr ⟨⟨hwcur, hrcur, hin, hbuf⟩, .inl ⟨hinstr, actionRest_of_actionHolds haction⟩⟩

theorem resume_sound {i : Instr} {todo : List Micro} {s : State} (hs : RunInv s) (hpos : s.pos = .running i todo) :
    Sound RunInv (runMicros i todo (feedFor todo s)) := by
  obtain ⟨e, he, -⟩ := feedFor_eq todo s
  rw [he]
  obtain ⟨rate, rfl, hconf⟩ | ⟨htxn, ⟨hinstr, stop, pre, post, htodo, hpre, hend⟩ | ⟨htodo, hphase⟩⟩ := hs.running hpos
  · exact runMicros_configure_sound hconf
  · have hend' := hend.setWire { s.wire with env := e }
    exact runMicros_action_sound ⟨htxn, .inl ⟨hinstr, stop, pre, post, htodo, hpre, hend'⟩⟩
  · exact runMicros_action_sound ⟨htxn, .inr ⟨htodo, hphase⟩⟩

/-- From the run invariant a step does not fault, and its next state has the invariant. -/
theorem step_sound {s : State} (hs : RunInv s) : Sound RunInv (step s) := by
  rw [step_eq, nextTurn]
  split
  · trivial
  · cases hpos : s.pos with
    | running i todo => exact resume_sound hs hpos
    | perform w => simp [RunInv, hpos] at hs
    | polling => exact sequencerTurn_sound (.answered hpos) hs
    | idle =>
      by_cases hst : s.seqState = .done
      · by_cases htxn : s.inTxn = true
        · simp only [hst, htxn, ne_eq, not_true_eq_false, if_false, if_true, runTurn, exec_stDone]
          exact runInv_returnToHost hs hpos hst
        · have hidle : s.isIdle = true := by simp [State.isIdle, hpos, hst, htxn]
          simp only [hst, htxn, ne_eq, not_true_eq_false, if_false]
          exact hostTurn_sound hs hidle
      · simp only [ne_eq, hst, not_false_eq_true, if_true]
        exact sequencerTurn_sound (.head hpos hst) hs

/-- Settles O52, by `step_sound`. -/
theorem stepKeepsTheRunInvariant : Obligations.StepKeepsTheRunInvariant := by
  intro s t h hs
  have hsound := step_sound hs
  rwa [h] at hsound

/-- Settles O53, by `step_sound`. -/
theorem noFaultUnderTheRunInvariant : Obligations.NoFaultUnderTheRunInvariant := by
  intro s f hs h
  have hsound := step_sound hs
  rwa [h] at hsound

/-! ### The return -/

/-- The action of a `STATE` other than done leaves the transaction running. -/
theorem exec_action_keeps_inTxn {st : SeqState} {s t : State} (h : exec st.instr s = .next t) (hst : st ≠ .done) :
    t.inTxn = s.inTxn := by
  obtain hmoves | ⟨hhost, -⟩ | ⟨hdone, -⟩ := exec_moves h
  · exact (Moves.keeps_txn hmoves).1
  · rw [SeqState.instr_opClass] at hhost
    cases hhost
  · cases st <;> simp [SeqState.instr] at hdone hst

/-- From the run invariant only the return ends a transaction. -/
theorem step_ends_transaction {s t : State} (hs : RunInv s) (h : step s = .next t) (hin : s.inTxn = true)
    (hout : t.inTxn = false) : s.pos = .idle ∧ s.seqState = .done ∧ t = returnToHost s := by
  have hkeeps (hkept : t.inTxn = s.inTxn) : False := by simp [hkept, hin] at hout
  cases step_cases h with
  | resume i todo hpos hrun =>
    have hmoves : StepMoves s t := (feedFor_moves todo s).trans (runMicros_moves (fun _ _ => trivial) hrun)
    exact (hkeeps (Moves.keeps_txn hmoves).1).elim
  | perform w i hpos => simp [RunInv, hpos] at hs
  | pollWaits s0 hat hp ht =>
    obtain ⟨e, rfl⟩ := hat.eq
    exact (hkeeps (ht ▸ rfl)).elim
  | pollOk s0 s1 hat hp hexec =>
    obtain ⟨-, -, hst⟩ := hat.phase hs
    obtain ⟨e, rfl⟩ := hat.polled hp
    have hkept := exec_action_keeps_inTxn hexec hst
    exact (hkeeps hkept).elim
  | pollFailsActs s0 s1 e hat hp hstops hexec =>
    obtain ⟨-, -, hst⟩ := hat.phase hs
    obtain ⟨e, rfl⟩ := hat.polled hp
    have hkept := exec_action_keeps_inTxn hexec hst
    exact (hkeeps hkept).elim
  | pollFailsSkips s0 s1 e hat hp hstops ht =>
    obtain ⟨e, rfl⟩ := hat.polled hp
    exact (hkeeps (ht ▸ rfl)).elim
  | returns hpos hst _ ht => exact ⟨hpos, hst, ht⟩
  | command w s0 i hidle =>
    obtain ⟨-, -, hno⟩ := State.isIdle_eq_true hidle
    simp [hin] at hno
  | rests hidle ht => exact (hkeeps (ht ▸ rfl)).elim

/-- Settles O55: the phase of done, by `step_ends_transaction`. -/
theorem returnLeavesTheBusReleased : Obligations.ReturnLeavesTheBusReleased := by
  intro s t hs h hin hout
  obtain ⟨hpos, hst, rfl⟩ := step_ends_transaction hs h hin hout
  obtain ⟨-, -, -, hphase⟩ := (runInv_idle_iff hpos).mp hs
  obtain ⟨hscl, hsda, hcur⟩ := (phaseHolds_done hst).mp hphase
  exact ⟨rfl, rfl, hst, hscl, hsda, hpos, rfl, fun hok => hcur hin (Option.some.inj hok)⟩

end Sys2Proof.Machine
end

section
/-!
PROOFS. WRITE frame by frame (R158); the state write_address beside WRITE_ADDRESS (R157, R185); and the symbols that START and STOP show
on the latches (R94, R150, R151).
-/

namespace Sys2Proof.Machine

/-! ### WRITE -/

/-- A byte of WRITE with the test of its acknowledgement (R158). -/
def sendFrame (v : Byte) : List Micro := writeByteProgram v ++ [.failOnNack .ioError]

/-- The events of the frames of acknowledged bytes. -/
def writeFrames (hb lb : Tick) (acked : List Byte) (kss : List (List Nat)) : List Event :=
  (List.zipWith (fun v ks => sentFrame hb lb v ks false) acked kss).flatten

/-- WRITE's block after acknowledged bytes, but for the environment and the trace. -/
def afterAcked (acked : List Byte) (s : State) : State :=
  { s with
    shreg := acked.foldl (fun _ _ => 0) s.shreg
    bitcnt := acked.foldl (fun _ _ => 8) s.bitcnt
    ackbit := acked.foldl (fun _ _ => false) s.ackbit
    sclOut := acked.foldl (fun _ _ => false) s.sclOut
    sdaOut := acked.foldl (fun _ _ => true) s.sdaOut
    loc := { s.loc with bit := acked.foldl (fun _ _ => false) s.loc.bit } }

theorem sclAnswers_append (ks ks' : List Nat) (vs : List Bit) :
    sclAnswers (ks ++ ks') ++ vs = sclAnswers ks ++ (sclAnswers ks' ++ vs) := by
  simp [sclAnswers]

theorem pollsOk_sum_append (ks ks' : List Nat) (rs : List PollAnswer) :
    pollsOk (ks ++ ks').sum ++ rs = pollsOk ks.sum ++ (pollsOk ks'.sum ++ rs) := by
  rw [List.sum_append, pollsOk_add, List.append_assoc]

/-- WRITE's program around one of its bytes. -/
theorem writeProgram_frames (pre : List Byte) (v : Byte) (post : List Byte) :
    writeProgram (pre ++ v :: post).length (pre ++ v :: post) =
      (pre.flatMap sendFrame ++ writeByteProgram v) ++ (.failOnNack .ioError :: post.flatMap sendFrame) :=
  calc
    _ = (pre ++ v :: post).flatMap sendFrame := writeProgram_length _
    _ = pre.flatMap sendFrame ++ (sendFrame v ++ post.flatMap sendFrame) := by rw [List.flatMap_append, List.flatMap_cons]
    _ = _ := by rw [sendFrame, List.append_assoc, List.append_assoc]; rfl

/-- An acknowledged byte of WRITE (R158). -/
theorem runs_sendFrame (i : Instr) (v : Byte) {ks : List Nat} (hks : ks.length = 8) {vs bs : List Bit}
    {rs : List PollAnswer} {s : State} (hscl : s.env.scl = sclAnswers ks ++ vs)
    (hpoll : s.env.poll = pollsOk ks.sum ++ rs) (hsda : s.env.sda = false :: bs) :
    Runs i s (sendFrame v) (cellHolds 9 s) (sentFrame s.highBudget s.lowBudget v ks false)
      { afterAcked [v] s with env := { s.env with scl := vs, poll := rs, sda := bs } } :=
  (runs_writeByteProgram i v hks hscl hpoll hsda).append_silent fun _ _ _ => rfl

/-- Acknowledged bytes, one after the other (R158). -/
theorem runs_sendFrames (i : Instr) {acked : List Byte} {kss : List (List Nat)} (hlen : kss.length = acked.length)
    (hkss : ∀ ks ∈ kss, ks.length = 8) {vs bs : List Bit} {rs : List PollAnswer} {s : State}
    (hscl : s.env.scl = sclAnswers kss.flatten ++ vs) (hpoll : s.env.poll = pollsOk kss.flatten.sum ++ rs)
    (hsda : s.env.sda = List.replicate acked.length false ++ bs) :
    Runs i s (acked.flatMap sendFrame) (cellHolds (9 * acked.length) s)
      (writeFrames s.highBudget s.lowBudget acked kss)
      { afterAcked acked s with env := { s.env with scl := vs, poll := rs, sda := bs } } := by
  induction acked generalizing kss s with
  | nil =>
    obtain rfl : kss = [] := List.length_eq_zero_iff.mp hlen
    obtain rfl : s.env.scl = vs := hscl
    obtain rfl : s.env.poll = rs := hpoll
    obtain rfl : s.env.sda = bs := hsda
    exact Runs.nil i s
  | cons v acked ih =>
    cases kss with
    | nil => simp at hlen
    | cons ks kss =>
      obtain ⟨hks, hkss⟩ := List.forall_mem_cons.mp hkss
      rw [List.flatten_cons, sclAnswers_append] at hscl
      rw [List.flatten_cons, pollsOk_sum_append] at hpoll
      rw [List.length_cons, Nat.mul_succ, Nat.add_comm, cellHolds_add]
      exact (runs_sendFrame i v hks hscl hpoll hsda).append (ih (Nat.succ.inj hlen) hkss rfl rfl rfl)

theorem afterAcked_concat (acked : List Byte) (v : Byte) (s : State) :
    afterAcked (acked ++ [v]) s = { s with
      shreg := 0, bitcnt := 8, ackbit := false, sclOut := false, sdaOut := true, loc := { s.loc with bit := false } } := by
  simp [afterAcked]

/-- Settles O28: the acknowledged bytes by `runs_sendFrames`, the one that is not by `runs_writeByteProgram`. -/
theorem writeStopsAtTheFirstNack : Obligations.WriteStopsAtTheFirstNack := by
  intro s n acked kss vs bs rs hlen hkss frames
  refine ⟨fun hn hscl hpoll hsda hclk => ?_, fun v post ks hn hks hscl hpoll hsda hclk => ?_⟩
  · subst hn
    obtain rfl | ⟨init, v, rfl⟩ := List.eq_nil_or_concat' acked
    · obtain rfl : kss = [] := List.length_eq_zero_iff.mp hlen
      obtain rfl : s.env.scl = vs := hscl
      obtain rfl : s.env.poll = rs := hpoll
      obtain rfl : s.env.sda = bs := hsda
      exact ⟨{ s with ret := some .ok, pos := .idle }, rfl, (List.append_nil _).symm, rfl, fun _ => rfl,
        fun h => absurd rfl h⟩
    · obtain ⟨up, last, tr, htr, hrun⟩ := (runs_sendFrames (.write (init ++ [v]).length (init ++ [v]))
        (s := { s with ret := none }) hlen hkss hscl hpoll hsda).finish hclk
      refine ⟨_, (congrArg (runMicros _ · _) (writeProgram_length _)).trans hrun, htr, rfl, fun h => ?_, fun _ => ?_⟩
      · simp at h
      · rw [afterAcked_concat]
        exact ⟨rfl, rfl, rfl, rfl, rfl⟩
  · subst hn
    rw [sclAnswers_append] at hscl
    rw [pollsOk_sum_append] at hpoll
    let i : Instr := .write (acked ++ v :: post).length (acked ++ v :: post)
    have hruns := (runs_sendFrames i (s := { s with ret := none }) hlen hkss hscl hpoll hsda).append
      (runs_writeByteProgram i v hks rfl rfl rfl)
    obtain ⟨up, last, tr, htr, hrun⟩ := hruns.runMicros (cellHolds_add _ _ _ ▸ hclk)
    refine ⟨up, last, tr, by rw [htr, ← List.append_assoc]; rfl, ?_⟩
    exact (congrArg (runMicros i · _) (writeProgram_frames acked v post)).trans ((hrun _).trans (runMicros_failOnNack_of_nack i _ _ rfl))

/-! ### write_address and WRITE_ADDRESS -/

theorem successor_ne_busError {s : State} {pending : SeqState} (hp : pending ≠ .busError) :
    successor s .write pending ≠ .busError := by
  unfold successor
  split
  · simp
  · split
    · exact hp
    · simp

/-- Settles O56: one wire-level program by `runMicros_onWire`, then the test of `ACKBIT` in either operation. -/
theorem writeAddressStateEqualsTheComposite : Obligations.WriteAddressStateEqualsTheComposite := by
  intro s t h
  let byte := addressByte s.addr (rwBit s)
  let s' : State := { s with ret := none }
  have hreads (r : Option Ret) : State.ReadsAs { s with ret := r } s := ⟨rfl, rfl, rfl, rfl⟩
  have hstate : runMicros .stWriteAddress (writeByteProgram byte ++ [.afterAddress]) (s.setWire s.wire) = .next t := h
  have hcomposite : exec (.writeAddress byte) s =
    runMicros (.writeAddress byte) (writeByteProgram byte ++ [.failOnNack .noSuchDevice]) (s'.setWire s.wire) := rfl
  rw [hcomposite]
  obtain ⟨w, hpass⟩ | ⟨todo, w, hwait⟩ | ⟨e, w, habort⟩ := runMicros_onWire (writeByteProgram_onWire byte) s s.wire
  · rw [(hpass _ _ (hreads s.ret)).runMicros] at hstate
    rw [(hpass _ _ (hreads none)).runMicros]
    obtain rfl := Host.Outcome.next.inj hstate
    have hend : finish .stWriteAddress (afterAddress (s.setWire w)) = _ :=
      congrArg (finish .stWriteAddress) (afterAddress_eq (s.setWire w))
    cases hack : w.ackbit with
    | true =>
      refine ⟨_, runMicros_failOnNack_of_nack _ _ _ (by simp [acknowledged, hack]), ?_⟩
      rw [hend]
      exact ⟨rfl, rfl, rfl, rfl, rfl, rfl, rfl, Iff.rfl, fun _ => by simp [hack]⟩
    | false =>
      refine ⟨_, runMicros_failOnNack_of_ack _ _ [] (by simp [acknowledged, hack]), ?_⟩
      rw [hend]
      refine ⟨rfl, rfl, rfl, rfl, rfl, rfl, rfl, Iff.rfl, fun _ => ?_⟩
      have hsucc : successor (s.setWire w) .write .read ≠ .busError := successor_ne_busError (by simp)
      simp [hack, hsucc, returned]
  · obtain rfl := Host.Outcome.next.inj ((hwait _ _ _ (hreads s.ret)).symm.trans hstate)
    exact ⟨_, hwait _ _ _ (hreads none), rfl, rfl, rfl, rfl, rfl, rfl, rfl, by simp, by simp⟩
  · obtain rfl := Host.Outcome.next.inj ((habort _ _ _ (hreads s.ret)).symm.trans hstate)
    exact ⟨_, habort _ _ _ (hreads none), rfl, rfl, rfl, rfl, rfl, rfl, rfl, by simp, by simp [abort, Instr.opClass]⟩

/-! ### Symbols -/

theorem symbols_delay (scl sda : Bit) (n : Tick) (ts : List Tick) (es : List Event) :
    symbols scl sda (.delay n :: (ts.map .uptime ++ es)) = symbols scl sda es := by
  induction ts with
  | nil => rfl
  | cons t ts ih => exact ih

theorem delayFlow_go {n start : Tick} {s t : State} (h : delayFlow n start s = .go t) :
    ∃ (e : Env) (ts : List Tick), t = { s with env := e, trace := s.trace ++ ts.map .uptime } := by
  simp only [delayFlow] at h
  split at h <;> cases h
  exact ⟨_, _, rfl⟩

/-- A delay run through adds `D(n)` and clock reads (R131). -/
theorem delayWhole_go_inv {n : Tick} {s t : State} (h : delayWhole n s = .go t) :
    ∃ (e : Env) (ts : List Tick), t = { s with env := e, trace := s.trace ++ .delay n :: ts.map .uptime } := by
  simp only [delayWhole, delayStartFlow] at h
  split at h
  · cases h
  · next start u hread =>
    obtain ⟨_, us, -, -, rfl⟩ := takeUptime_some hread
    obtain ⟨e, ts, rfl⟩ := delayFlow_go h
    exact ⟨e, start :: ts, by simp [emit]⟩

/-- What a part of a program shows on the latches: the symbols, and the latches from which the symbols after it are decoded. -/
def Shows (s t : State) (syms : List Symbol) : Prop :=
  ∃ es, t.trace = s.trace ++ es ∧
    ∀ es', symbols s.sclOut s.sdaOut (es ++ es') = syms ++ symbols t.sclOut t.sdaOut es'

theorem Shows.trans {s t u : State} {a b : List Symbol} (h : Shows s t a) (h' : Shows t u b) : Shows s u (a ++ b) := by
  obtain ⟨es, htr, hsym⟩ := h
  obtain ⟨es', htr', hsym'⟩ := h'
  refine ⟨es ++ es', by rw [htr', htr, List.append_assoc], fun rest => ?_⟩
  rw [List.append_assoc, hsym, hsym', List.append_assoc]

/-- The symbol of a change of SDA's latch to `b` (R94). -/
def edge (scl sda b : Bit) : List Symbol :=
  if scl && sda && !b then [.start] else if scl && !sda && b then [.stop] else []

theorem shows_setScl (s : State) (b : Bit) : Shows s (pinSet .scl b s) [] := ⟨[.set .scl b], rfl, fun _ => rfl⟩

theorem shows_setSda (s : State) (b : Bit) : Shows s (pinSet .sda b s) (edge s.sclOut s.sdaOut b) := by
  refine ⟨[.set .sda b], rfl, fun es => ?_⟩
  cases hscl : s.sclOut <;> cases hsda : s.sdaOut <;> cases b <;> simp [symbols, edge, hscl]

theorem shows_delay {n : Tick} {s t : State} (h : delayWhole n s = .go t) :
    Shows s t [] ∧ t.sclOut = s.sclOut ∧ t.sdaOut = s.sdaOut := by
  obtain ⟨e, ts, rfl⟩ := delayWhole_go_inv h
  exact ⟨⟨_, rfl, fun es => symbols_delay _ _ n ts es⟩, rfl, rfl⟩

/-- SEND_START's pin sets show a START, after what raising SDA shows (R150). -/
theorem shows_startProgram {i : Instr} {s t : State} (h : Passes i startProgram s t) :
    Shows s t (edge s.sclOut s.sdaOut true ++ [.start]) := by
  obtain ⟨s1, h1, s2, h2, s3, h3, s4, h4, s5, h5, s6, h6, s7, h7, rfl⟩ := h
  cases h1
  cases h2
  cases h4
  cases h6
  obtain ⟨hshow3, hscl3, hsda3⟩ := shows_delay h3
  obtain ⟨hshow5, -, -⟩ := shows_delay h5
  obtain ⟨hshow7, -, -⟩ := shows_delay h7
  have hedge : edge s3.sclOut s3.sdaOut false = [.start] := by rw [hscl3, hsda3]; rfl
  have hstart := ((((((shows_setSda s true).trans (shows_setScl _ true)).trans hshow3).trans
    (shows_setSda s3 false)).trans hshow5).trans (shows_setScl _ false)).trans hshow7
  simpa [hedge] using hstart

/-- SEND_STOP's pin sets show a STOP, after what lowering SDA shows (R151). -/
theorem shows_stopProgram {i : Instr} {s t : State} (h : Passes i stopProgram s t) :
    Shows s t (edge s.sclOut s.sdaOut false ++ [.stop]) := by
  obtain ⟨s1, h1, s2, h2, s3, h3, s4, h4, s5, h5, rfl⟩ := h
  cases h1
  cases h2
  cases h4
  obtain ⟨hshow3, hscl3, hsda3⟩ := shows_delay h3
  obtain ⟨hshow5, -, -⟩ := shows_delay h5
  have hedge : edge s3.sclOut s3.sdaOut true = [.stop] := by rw [hscl3, hsda3]; rfl
  have hstop := ((((shows_setSda s false).trans (shows_setScl _ true)).trans hshow3).trans
    (shows_setSda s3 true)).trans hshow5
  simpa [hedge] using hstop

theorem Shows.symbolsBetween {s t : State} {syms : List Symbol} (h : Shows s t syms) :
    Machine.symbolsBetween s t = syms := by
  obtain ⟨es, htr, hsym⟩ := h
  simpa [Machine.symbolsBetween, htr, symbols] using hsym []

/-- A program of pin sets and delays that has come to an end has been run through. -/
theorem passes_of_ofStop {i : Instr} {ms : List Micro} {s t : State} (hms : ms.all Micro.ofStop = true)
    (h : runMicros i ms s = .next t) (ht : t.pos = .idle) : ∃ u, Passes i ms s u ∧ t = finish i u := by
  obtain hpass | ⟨pre, m, post, u, v, rfl, -, hhalt, -⟩ := runMicros_idle h ht
  · exact hpass
  · have hm : m.ofStop = true := List.all_eq_true.mp hms m (by simp)
    obtain ⟨w, ⟨hgo, -⟩ | ⟨m', -, hwait, -⟩⟩ := runMicro_ofStop i u hm
    · cases hgo.symm.trans hhalt
    · cases hwait.symm.trans hhalt

theorem symbolsBetween_sendStart {s t : State} (h : exec .sendStart s = .next t) (ht : t.pos = .idle) :
    symbolsBetween s t = edge s.sclOut s.sdaOut true ++ [.start] := by
  obtain ⟨u, hpass, rfl⟩ := passes_of_ofStop (ms := startProgram) rfl h ht
  exact (shows_startProgram hpass).symbolsBetween

theorem symbolsBetween_sendStop {s t : State} (h : exec .sendStop s = .next t) (ht : t.pos = .idle) :
    symbolsBetween s t = edge s.sclOut s.sdaOut false ++ [.stop] := by
  obtain ⟨u, hpass, rfl⟩ := passes_of_ofStop (ms := stopProgram) rfl h ht
  exact (shows_stopProgram hpass).symbolsBetween

/-- Settles O42: the first symbol is that of the first `PinSet(SDA)`, by the latches at entry. -/
theorem startAndStopShowTheirSymbols : Obligations.StartAndStopShowTheirSymbols := by
  refine fun s t => ⟨fun h ht hlatch => ?_, fun h ht hscl hsda => ?_, fun h ht hlatch => ?_, fun h ht hscl hsda => ?_⟩
  · rw [symbolsBetween_sendStart h ht]
    obtain hscl | hsda := hlatch
    · simp [edge, hscl]
    · simp [edge, hsda]
  · rw [symbolsBetween_sendStart h ht, hscl, hsda]
    rfl
  · rw [symbolsBetween_sendStop h ht]
    obtain hscl | hsda := hlatch
    · simp [edge, hscl]
    · simp [edge, hsda]
  · rw [symbolsBetween_sendStop h ht, hscl, hsda]
    rfl

end Sys2Proof.Machine
end
